-- ==== Sys2Proof/Word.lean ====
section
/-! DEFINITION. The word types of the machine and the plain names for them (spec 00_scope.md R10, R11). -/

namespace Sys2Proof

/-- A 32-bit value (R10; `XLEN = ALEN = 32`, R9). -/
abbrev Word := BitVec 32

/-- A 16-bit value (R10). -/
abbrev Half := BitVec 16

/-- An 8-bit value (R10). -/
abbrev Byte := BitVec 8

/-- A 64-bit value: the multiply unit's accumulators and products (R72, R372). -/
abbrev DWord := BitVec 64

/-- A general register index 0..15 (R33); 13 is SP, 14 is LR, 15 is PC (R13). -/
abbrev Reg := Fin 16

/-- External memory: the bytes that differ from what an unlisted address reads as, by address
(20_memory.md R101, R105; log entry 2). -/
abbrev Memory := List Host.Cell

end Sys2Proof
end

