-- ==== Sys2Proof/Config.lean ====
section
/-! DEFINITION. What an implementation fixes (the parameters of spec 00_scope.md R9, all of them held in the
state field `cfg`, so that every statement about every state is a statement about every choice of them) and the
free values the spec leaves open (R18), each an opaque constant nothing can evaluate. -/

namespace Sys2Proof

/-- `CACHE_KIND` (R9; 20_memory.md R124, R125, R126). -/
inductive CacheKind where
  | direct
  | associative
  | setAssociative
  deriving DecidableEq, Repr

/-- `PC_STORE_OFFSET`, 8 or 12 (R9, 45_load_store.md R420). -/
inductive PcStoreOffset where
  | eight
  | twelve
  deriving DecidableEq, Repr

/-- One address window of `PERIPH_MAP` (R9, 20_memory.md R102): addresses `base .. base + size - 1`. -/
structure Window where
  base : Nat
  size : Nat
  deriving DecidableEq, Repr

/-- The parameters of R9. `XLEN`, `ALEN`, `NREG`, `CP_SLOTS` and `LDC_MAX_WORDS` are fixed by the types of the
model; `BIGEND` is fixed false (20_memory.md R105). `swiTable` lists the keys the host registered a callback for
(42_branch_swi.md R316), `cpSlots` the occupied coprocessor slots (48_coprocessor.md R514) and `cpPlugIns` the slots whose
plug-in is given as a function (R516). -/
structure Config where
  cacheKind     : CacheKind
  cacheWords    : Nat
  lineWords     : Nat
  ways          : Nat
  busSpeed      : Nat
  setupCycles   : Nat
  writeCycles   : Nat
  memLimit      : Nat
  periphMap     : List Window
  pcStoreOffset : PcStoreOffset
  swiTableSize  : Nat
  swiTable      : List Nat
  cpSlots       : List (Fin 16)
  cpPlugIns     : List (Fin 16)
  maxInstLen    : Nat
  deriving DecidableEq, Repr

/-- The parameters `State.reset` is written with: one admissible choice, nothing more (DESIGN CHOICE, log
entry 3). -/
def Config.standard : Config :=
  { cacheKind := .direct, cacheWords := 256, lineWords := 4, ways := 1,
    busSpeed := 1, setupCycles := 1, writeCycles := 1,
    memLimit := 0x80000000, periphMap := [{ base := 0x80000000, size := 0x80000000 }],
    pcStoreOffset := .eight, swiTableSize := 256, swiTable := [], cpSlots := [], cpPlugIns := [],
    maxInstLen := 40 }

/-- What the core makes of a coprocessor's lines at the handshake (48_coprocessor.md R512): `wait` is `busy` or silence,
`ack` is acceptance, `abort` is refusal. -/
inductive CpReply where
  | wait
  | ack
  | abort
  deriving DecidableEq, Repr

/-- A coprocessor's half of the bus record (48_coprocessor.md R513): what it drives in one cycle. `last` goes with the
final word of an LDC or STC. -/
structure CpLines where
  ack    : Bool
  abort  : Bool
  busy   : Bool
  dataIn : Word
  last   : Bool
  deriving DecidableEq, Repr, Inhabited

/-- The core's half of the bus record (48_coprocessor.md R513): the request line, the instruction driven with it, the
word on data-out. `transfer` is the model's own: in this cycle a word moves, to or from the coprocessor (DESIGN CHOICE,
log entry 6). -/
structure CpBus where
  request  : Bool
  instr    : Word
  dataOut  : Word
  transfer : Bool
  deriving DecidableEq, Repr

/-- What a plug-in holds, as words: its number and width of registers are its own (10_state.md R78). `regs` is the state
that R512 keeps unchanged until a request is accepted; `control` is what the plug-in counts its waits with (DESIGN
CHOICE, log entry 6). -/
structure PlugInState where
  regs    : List Word
  control : List Word
  deriving DecidableEq, Repr, Inhabited

/-- A given plug-in, by slot (R516): a function from its state and the bus record to its new state and its answer, the
lines it drives. A parameter of the model: any function. Log entry 6. -/
opaque Config.plugIn : Fin 16 → PlugInState → CpBus → PlugInState × CpLines

/-- A free bit (R18): the C and V flags after a multiply (44_multiply.md R386), the flags after a run-time reset
(10_state.md R80), the old or the new word of a stale cache line (20_memory.md R158). Log entry 4. -/
opaque Config.freeBit : Nat → Bool

/-- A free word (R18): what a peripheral read returns (20_memory.md R154). Log entry 4. -/
opaque Config.freeWord : Nat → Word

/-- A free number (R18): the victim slot of a full fully associative cache (20_memory.md R125). Log entry 4. -/
opaque Config.freeSlot : Nat → Nat

/-- The lines of an occupied slot with no plug-in given, in one cycle, free (R18; 48_coprocessor.md R516): ack, abort or
wait, any data, any word count. Log entry 4. -/
opaque Config.freeCpLines : Nat → CpLines

/-- What an SWI callback does (42_branch_swi.md R317): the word it returns and the bytes of external memory it writes, in
order. Log entry 5. -/
structure SwiAnswer where
  result : Word
  writes : List Host.Cell
  deriving DecidableEq, Repr

/-- The word an SWI callback returns, by key, the four argument registers and external memory
(42_branch_swi.md R317). A parameter of the model: any function. Log entry 5. -/
opaque Config.swiResult : Nat → Word → Word → Word → Word → Memory → Word

/-- The bytes an SWI callback writes to external memory, in order, by the same arguments (R317). -/
opaque Config.swiWrites : Nat → Word → Word → Word → Word → Memory → List Host.Cell

end Sys2Proof
end

