-- ==== Sys2Proof/Syntax.lean ====
section
/-! DEFINITION. The instructions: one constructor per row of spec/opcode_table.json (spec 30_encoding.md), with
the operand forms of each format. Bits the class matchers leave free but the architecture wants zero (R197) are
kept as `sbz` fields, so that a word is known again from its instruction; a non-zero one is refused. -/

namespace Sys2Proof

/-- The conditions an instruction may carry (R172). `1111` is not among them: such a word is undefined (R171). -/
inductive Cond where
  | eq | ne | cs | cc | mi | pl | vs | vc | hi | ls | ge | lt | gt | le | al
  deriving DecidableEq, Repr

/-- The shift types of a shifted operand (R178). -/
inductive ShiftType where
  | lsl | lsr | asr | ror
  deriving DecidableEq, Repr

/-- The three forms of a data-processing operand (R178). -/
inductive Operand2 where
  | imm (rot : BitVec 4) (imm8 : Byte)
  | immShift (rm : Reg) (ty : ShiftType) (amount : BitVec 5)
  | regShift (rm : Reg) (ty : ShiftType) (rs : Reg)
  deriving DecidableEq, Repr

/-- The two forms of a single-word or byte transfer's offset (R179, R191). -/
inductive Offset where
  | imm (imm12 : BitVec 12)
  | reg (rm : Reg) (ty : ShiftType) (amount : BitVec 5)
  deriving DecidableEq, Repr

/-- The two forms of a half-word transfer's offset (R180, R192). -/
inductive HalfOffset where
  | imm (imm8 : Byte)
  | reg (sbz : BitVec 4) (rm : Reg)
  deriving DecidableEq, Repr

/-- How a single-word or byte transfer uses its offset (R179): `offset` is `P = 1, W = 0`, `pre` is `P = 1, W = 1`,
`post` is `P = 0`. -/
inductive Indexing where
  | offset | pre | post
  deriving DecidableEq, Repr

/-- Which status register a PSR transfer names (R183, R184). -/
inductive PsrSel where
  | cpsr | spsr
  deriving DecidableEq, Repr

/-- The instruction set: the 57 rows of the opcode table (R202). `s`, `u`, `w`, `p`, `n` are the bits of those
names; `c` is the condition. -/
inductive Instr where
  | b (c : Cond) (imm24 : BitVec 24)
  | bl (c : Cond) (imm24 : BitVec 24)
  | swi (c : Cond) (comment : BitVec 24)
  | mul (c : Cond) (s : Bool) (rd : Reg) (sbz : BitVec 4) (rs rm : Reg)
  | mla (c : Cond) (s : Bool) (rd rn rs rm : Reg)
  | umull (c : Cond) (s : Bool) (rdHi rdLo rs rm : Reg)
  | umlal (c : Cond) (s : Bool) (rdHi rdLo rs rm : Reg)
  | smull (c : Cond) (s : Bool) (rdHi rdLo rs rm : Reg)
  | smlal (c : Cond) (s : Bool) (rdHi rdLo rs rm : Reg)
  | and (c : Cond) (s : Bool) (rn rd : Reg) (op : Operand2)
  | eor (c : Cond) (s : Bool) (rn rd : Reg) (op : Operand2)
  | sub (c : Cond) (s : Bool) (rn rd : Reg) (op : Operand2)
  | rsb (c : Cond) (s : Bool) (rn rd : Reg) (op : Operand2)
  | add (c : Cond) (s : Bool) (rn rd : Reg) (op : Operand2)
  | adc (c : Cond) (s : Bool) (rn rd : Reg) (op : Operand2)
  | sbc (c : Cond) (s : Bool) (rn rd : Reg) (op : Operand2)
  | rsc (c : Cond) (s : Bool) (rn rd : Reg) (op : Operand2)
  | tst (c : Cond) (rn : Reg) (sbz : BitVec 4) (op : Operand2)
  | teq (c : Cond) (rn : Reg) (sbz : BitVec 4) (op : Operand2)
  | cmp (c : Cond) (rn : Reg) (sbz : BitVec 4) (op : Operand2)
  | cmn (c : Cond) (rn : Reg) (sbz : BitVec 4) (op : Operand2)
  | orr (c : Cond) (s : Bool) (rn rd : Reg) (op : Operand2)
  | mov (c : Cond) (s : Bool) (sbz : BitVec 4) (rd : Reg) (op : Operand2)
  | bic (c : Cond) (s : Bool) (rn rd : Reg) (op : Operand2)
  | mvn (c : Cond) (s : Bool) (sbz : BitVec 4) (rd : Reg) (op : Operand2)
  | ldr (c : Cond) (ix : Indexing) (u : Bool) (rn rd : Reg) (off : Offset)
  | str (c : Cond) (ix : Indexing) (u : Bool) (rn rd : Reg) (off : Offset)
  | ldrb (c : Cond) (ix : Indexing) (u : Bool) (rn rd : Reg) (off : Offset)
  | strb (c : Cond) (ix : Indexing) (u : Bool) (rn rd : Reg) (off : Offset)
  | ldrt (c : Cond) (u : Bool) (rn rd : Reg) (off : Offset)
  | strt (c : Cond) (u : Bool) (rn rd : Reg) (off : Offset)
  | ldrbt (c : Cond) (u : Bool) (rn rd : Reg) (off : Offset)
  | strbt (c : Cond) (u : Bool) (rn rd : Reg) (off : Offset)
  | strh (c : Cond) (p u w : Bool) (rn rd : Reg) (off : HalfOffset)
  | ldrh (c : Cond) (p u w : Bool) (rn rd : Reg) (off : HalfOffset)
  | ldrsb (c : Cond) (p u w : Bool) (rn rd : Reg) (off : HalfOffset)
  | ldrsh (c : Cond) (p u w : Bool) (rn rd : Reg) (off : HalfOffset)
  | ldmia (c : Cond) (s w : Bool) (rn : Reg) (list : BitVec 16)
  | ldmib (c : Cond) (s w : Bool) (rn : Reg) (list : BitVec 16)
  | ldmda (c : Cond) (s w : Bool) (rn : Reg) (list : BitVec 16)
  | ldmdb (c : Cond) (s w : Bool) (rn : Reg) (list : BitVec 16)
  | stmia (c : Cond) (s w : Bool) (rn : Reg) (list : BitVec 16)
  | stmib (c : Cond) (s w : Bool) (rn : Reg) (list : BitVec 16)
  | stmda (c : Cond) (s w : Bool) (rn : Reg) (list : BitVec 16)
  | stmdb (c : Cond) (s w : Bool) (rn : Reg) (list : BitVec 16)
  | swp (c : Cond) (rn rd rm : Reg)
  | swpb (c : Cond) (rn rd rm : Reg)
  | mrsCpsr (c : Cond) (rd : Reg)
  | mrsSpsr (c : Cond) (rd : Reg)
  | msrReg (c : Cond) (r : PsrSel) (mask : BitVec 4) (rm : Reg)
  | msrImm (c : Cond) (r : PsrSel) (mask rot : BitVec 4) (imm8 : Byte)
  | cdp (c : Cond) (op1 crn crd : BitVec 4) (cp : Fin 16) (op2 : BitVec 3) (crm : BitVec 4)
  | ldc (c : Cond) (p u n w : Bool) (rn : Reg) (crd : BitVec 4) (cp : Fin 16) (imm8 : Byte)
  | stc (c : Cond) (p u n w : Bool) (rn : Reg) (crd : BitVec 4) (cp : Fin 16) (imm8 : Byte)
  | mcr (c : Cond) (op1 : BitVec 3) (crn : BitVec 4) (rd : Reg) (cp : Fin 16) (op2 : BitVec 3) (crm : BitVec 4)
  | mrc (c : Cond) (op1 : BitVec 3) (crn : BitVec 4) (rd : Reg) (cp : Fin 16) (op2 : BitVec 3) (crm : BitVec 4)
  | undefined (w : Word)
  deriving DecidableEq, Repr

end Sys2Proof
end

