-- ==== Sys2Proof/Machine/ControlWord.lean ====
section
/-! DEFINITION. The types of the micro-operation control word (spec 40_sequencer.md R220): the fields of the source,
typed as the rule types them, and four fields of the model's own (`storeSel`, `extend`, `pcFrom` and the arguments
of `mulTag`), for the selections R241's stage layout needs and R220 does not list (DESIGN CHOICE, log entry 20). -/

namespace Sys2Proof.Machine

/-- The width code of a bus access (20_memory.md R107). -/
inductive Width where
  | byte | half | word
  deriving DecidableEq, Repr

/-- The exceptions (60_exceptions.md R540). Prefetch abort and data abort exist and are never raised (R554). -/
inductive Exc where
  | reset | undefined | swi | prefetchAbort | dataAbort | irq | fiq
  deriving DecidableEq, Repr

/-- A-bus operand (R220 `aSel`); `pcval` is `cur + 8`. -/
inductive ASel where
  | none
  | reg (r : Reg)
  | pcval
  deriving DecidableEq, Repr

/-- B-bus operand before the shifter (R220 `bSel`). -/
inductive BSel where
  | none
  | reg (r : Reg)
  | imm (v : Word)
  | dataIn
  deriving DecidableEq, Repr

/-- Shift applied to B (R220 `shType`). -/
inductive ShiftOp where
  | lsl | lsr | asr | ror | rrx
  deriving DecidableEq, Repr

/-- Shift amount (R220 `shAmt`); a register gives its low byte. -/
inductive ShAmt where
  | none
  | imm (n : Nat)
  | reg (r : Reg)
  deriving DecidableEq, Repr

/-- ALU function (R220 `aluOp`, 41_alu_shifter.md R280). -/
inductive AluOp where
  | and | eor | sub | rsb | add | adc | sbc | rsc
  | tst | teq | cmp | cmn | orr | mov | bic | mvn
  | passA | passB
  deriving DecidableEq, Repr

/-- The latches a stage writes (R220 `update`). -/
structure UpdateMask where
  reg     : Bool := false
  flags   : Bool := false
  pc      : Bool := false
  dataOut : Bool := false
  dataIn  : Bool := false
  addr    : Bool := false
  ipipe   : Bool := false
  deriving DecidableEq, Repr

/-- Next value of the address register (R220 `addrMode`, R237). -/
inductive AddrMode where
  | increment
  | aluResult
  | register (r : Reg)
  | unchanged
  deriving DecidableEq, Repr

/-- Bus access of a stage (R220 `busDrive`). `readBlock` is a word read whose address bits 1:0 are ignored, so that
nothing is rotated (46_block_transfer.md R463, 48_coprocessor.md R525). -/
inductive BusDrive where
  | none
  | fetch
  | read (w : Width)
  | readBlock
  | write (w : Width)
  deriving DecidableEq, Repr

/-- What the final stages of a multiply add (44_multiply.md R382): nothing, the A-bus word, or A and B as one
64-bit value. -/
inductive MulAcc where
  | none | word | dword
  deriving DecidableEq, Repr

/-- Multiply-stage tag (R220 `mulTag`, 44_multiply.md R377, R378, R382). -/
inductive MulTag where
  | none
  | init (signed : Bool)
  | loop
  | finalLo (acc : MulAcc) (long : Bool)
  | finalHi
  deriving DecidableEq, Repr

/-- Coprocessor-stage tag (R220 `cpTag`). -/
inductive CpTag where
  | none | init | xfer
  deriving DecidableEq, Repr

/-- Register-bank override (R220 `bankOvr`, R239). -/
inductive BankOvr where
  | none | userRead | userWrite
  deriving DecidableEq, Repr

/-- The mode and PSR actions (R220 `special`). `mrcFlags` writes `CPSR[31:28]` from the data-in latch
(48_coprocessor.md R523). -/
inductive Special where
  | none
  | swiHook (key : Nat)
  | entry (e : Exc)
  | restoreCpsr
  | msr (r : PsrSel) (mask : BitVec 4)
  | mrs (r : PsrSel)
  | mrcFlags
  deriving DecidableEq, Repr

/-- How the core extends a loaded value (20_memory.md R116, 45_load_store.md R436, R437). -/
inductive Extend where
  | zero | signByte | signHalf
  deriving DecidableEq, Repr

/-- What a stage that writes the PC writes: the value as it is (a branch), a value that must be aligned
(43_data_processing.md R332), a loaded value with bits 1:0 ignored (46_block_transfer.md R462), or the same with the
load's address required aligned (45_load_store.md R418). -/
inductive PcFrom where
  | target | checked | loaded | loadedAligned
  deriving DecidableEq, Repr

/-- A control word (R220). -/
structure ControlWord where
  cond     : Cond := .al
  aSel     : ASel := .none
  bSel     : BSel := .none
  shType   : ShiftOp := .lsl
  shAmt    : ShAmt := .none
  aluOp    : AluOp := .passB
  dest     : Option Reg := none
  update   : UpdateMask := {}
  addrMode : AddrMode := .unchanged
  busDrive : BusDrive := .none
  mulTag   : MulTag := .none
  cpTag    : CpTag := .none
  bankOvr  : BankOvr := .none
  special  : Special := .none
  storeSel : Option Reg := none
  extend   : Extend := .zero
  pcFrom   : PcFrom := .target
  deriving DecidableEq, Repr

/-- The first refill stage (R236): fetch into the empty instruction pipe. -/
def refill1Word : ControlWord := { busDrive := .fetch }

/-- The second refill stage (R236): the `IPIPE` action of R226; the same word stands for a failed condition, an
instruction that only advances the pipe (R230). -/
def ipipeWord : ControlWord := { update := { ipipe := true }, busDrive := .fetch }

end Sys2Proof.Machine
end

