-- ==== Sys2Proof/Machine/Pool.lean ====
section
/-! DEFINITION. The control-word pool (spec 10_state.md R77, 40_sequencer.md R224): the preallocated array, the free list,
borrowing and returning. A control word is named by its index in the array; a queue holds such names. -/

namespace Sys2Proof.Machine

/-- The pool (R77): the array of control words and the free list of its indices. -/
structure Pool where
  words : List ControlWord
  free  : List Nat
  deriving DecidableEq, Repr

/-- The pool of `n` control words after reset: every one free but the two of the seed `[R1, R2]` (10_state.md R80,
40_sequencer.md R244), which are words 0 and 1. A free control word holds no recipe; what stands in it is not read. -/
def seededPool (n : Nat) : Pool :=
  { words := refill1Word :: ipipeWord :: List.replicate (n - 2) ipipeWord
    free := (List.range (n - 2)).map (· + 2) }

/-- The control word of a name. -/
def Pool.word (p : Pool) (h : Nat) : ControlWord := p.words.getD h ipipeWord

/-- Control words written at their names. -/
def storeWords : List Nat → List ControlWord → List ControlWord → List ControlWord
  | h :: hs, w :: ws, a => storeWords hs ws (a.set h w)
  | [], _, a => a
  | _, [], a => a

/-- A recipe's control words borrowed (R224): their names and the pool that is left, none when too few are free. -/
def Pool.borrow (ws : List ControlWord) (p : Pool) : Option (List Nat × Pool) :=
  if p.free.length < ws.length then none
  else
    let hs := p.free.take ws.length
    some (hs, { words := storeWords hs ws p.words, free := p.free.drop ws.length })

/-- Control words returned (R224, R234). -/
def Pool.release (hs : List Nat) (p : Pool) : Pool := { p with free := hs ++ p.free }

/-- A borrowed control word changed in place. -/
def Pool.amend (h : Nat) (f : ControlWord → ControlWord) (p : Pool) : Pool := { p with words := p.words.modify h f }

end Sys2Proof.Machine
end

