-- ==== Sys2Proof/Machine/Restrictions.lean ====
section
/-! DEFINITION. The field combinations the spec refuses (spec 00_scope.md R17, listed in
93_implementation_defined.md 1.1), one check per format. A refusal is a property of the word: it is tested before
the condition (41_alu_shifter.md R262). -/

namespace Sys2Proof.Machine

/-- Why a word is refused: the architecture calls the combination unpredictable and the spec gives it no meaning
(R17). -/
inductive Unpredictable where
  /-- A should-be-zero field is not zero (30_encoding.md R197). -/
  | sbzNotZero
  /-- A register-specified shift with register 15 among its operands (43_data_processing.md R333). -/
  | pcInRegisterShift
  /-- A multiply with register 15 (44_multiply.md R385). -/
  | multiplyPc
  /-- MUL or MLA with `Rd = Rm` (R385). -/
  | multiplyRdIsRm
  /-- A long multiply whose `RdHi`, `RdLo`, `Rm` are not distinct (R385). -/
  | longMultiplyOverlap
  /-- Write-back to register 15 (45_load_store.md R412, R431; 48_coprocessor.md R521). -/
  | writeBackPc
  /-- Write-back with `Rn = Rd` (R412, R431). -/
  | writeBackRd
  /-- A register offset that is register 15 (R412, R431). -/
  | offsetPc
  /-- A post-indexed register offset with `Rm = Rn` (R412). -/
  | postIndexSameReg
  /-- A byte transfer of register 15 (R412). -/
  | byteTransferPc
  /-- A half-word or signed transfer of register 15 (R431). -/
  | halfTransferPc
  /-- A half-word transfer with `P = 0` and `W = 1` (R430). -/
  | halfPostIndexW
  /-- A swap with register 15 (R442). -/
  | swapPc
  /-- A swap with `Rn = Rd` or `Rn = Rm` (R442). -/
  | swapBase
  /-- A block transfer of no register (46_block_transfer.md R467). -/
  | emptyList
  /-- A block transfer whose base is register 15 (R467). -/
  | blockBasePc
  /-- LDM with write-back of a listed base (R467). -/
  | loadBaseListed
  /-- STM with write-back of a listed base that is not the lowest listed register (R467). -/
  | storeBaseNotLowest
  /-- A User-bank transfer with write-back (R466, R467). -/
  | userBankWriteBack
  /-- MRS into register 15 (47_psr_transfer.md R492). -/
  | mrsPc
  /-- MSR from register 15 (R492). -/
  | msrPc
  /-- MCR from register 15 (48_coprocessor.md R521). -/
  | mcrPc
  /-- LDC or STC with `P = 0` and `W = 0` (R521). -/
  | cpUnindexed
  deriving DecidableEq, Repr

/-- The first reason whose test holds. -/
def firstReason : List (Bool × Unpredictable) → Option Unpredictable
  | [] => none
  | (holds, why) :: rest => if holds then some why else firstReason rest

/-- R333: `regs` are the other register operands of a data-processing word. -/
def restrictOperand2 (regs : List Reg) : Operand2 → Option Unpredictable
  | .regShift rm _ rs => firstReason [((rm :: rs :: regs).any (· == 15), .pcInRegisterShift)]
  | _ => none

/-- R197, R333, R335 for an operation with both `Rn` and `Rd`. -/
def restrictDp (rn rd : Reg) (op : Operand2) : Option Unpredictable :=
  restrictOperand2 [rn, rd] op

/-- R197, R333, R335 for an operation with one register field and one should-be-zero field. -/
def restrictDpSbz (sbz : BitVec 4) (r : Reg) (op : Operand2) : Option Unpredictable :=
  if sbz != 0 then some .sbzNotZero else restrictOperand2 [r] op

/-- R385 for MUL. -/
def restrictMul (rd : Reg) (sbz : BitVec 4) (rs rm : Reg) : Option Unpredictable :=
  firstReason [([rd, rs, rm].any (· == 15), .multiplyPc), (rd == rm, .multiplyRdIsRm), (sbz != 0, .sbzNotZero)]

/-- R385 for MLA. -/
def restrictMla (rd rn rs rm : Reg) : Option Unpredictable :=
  firstReason [([rd, rn, rs, rm].any (· == 15), .multiplyPc), (rd == rm, .multiplyRdIsRm)]

/-- R385 for the long multiplies. -/
def restrictLongMul (rdHi rdLo rs rm : Reg) : Option Unpredictable :=
  firstReason [([rdHi, rdLo, rs, rm].any (· == 15), .multiplyPc),
    (rdHi == rdLo || rdHi == rm || rdLo == rm, .longMultiplyOverlap)]

/-- The index register of an offset is `r` (R412). -/
def offsetIsReg (off : Offset) (r : Reg) : Bool :=
  match off with
  | .imm _ => false
  | .reg rm _ _ => rm == r

/-- R412. -/
def restrictSingle (isByte : Bool) (ix : Indexing) (rn rd : Reg) (off : Offset) : Option Unpredictable :=
  firstReason [(ix != .offset && rn == 15, .writeBackPc), (ix != .offset && rn == rd, .writeBackRd),
    (offsetIsReg off 15, .offsetPc), (ix == .post && offsetIsReg off rn, .postIndexSameReg),
    (isByte && rd == 15, .byteTransferPc)]

/-- R430, R431, R197. -/
def restrictHalf (p w : Bool) (rn rd : Reg) (off : HalfOffset) : Option Unpredictable :=
  firstReason [(!p && w, .halfPostIndexW), (rd == 15, .halfTransferPc),
    ((!p || w) && rn == 15, .writeBackPc), ((!p || w) && rn == rd, .writeBackRd),
    (match off with | .imm _ => false | .reg _ rm => rm == 15, .offsetPc),
    (match off with | .imm _ => false | .reg sbz _ => sbz != 0, .sbzNotZero)]

/-- R442. -/
def restrictSwap (rn rd rm : Reg) : Option Unpredictable :=
  firstReason [([rn, rd, rm].any (· == 15), .swapPc), (rn == rd || rn == rm, .swapBase)]

/-- R467 for LDM. -/
def restrictLdm (s w : Bool) (rn : Reg) (list : BitVec 16) : Option Unpredictable :=
  firstReason [(list == 0, .emptyList), (rn == 15, .blockBasePc), (w && list.getLsbD rn.val, .loadBaseListed),
    (s && w && !list.getLsbD 15, .userBankWriteBack)]

/-- R467 for STM; some register below `Rn` is listed exactly when `list mod 2^Rn` is not zero. -/
def restrictStm (s w : Bool) (rn : Reg) (list : BitVec 16) : Option Unpredictable :=
  firstReason [(list == 0, .emptyList), (rn == 15, .blockBasePc),
    (w && list.getLsbD rn.val && list.toNat % 2 ^ rn.val != 0, .storeBaseNotLowest),
    (s && w, .userBankWriteBack)]

/-- R492 for MRS. -/
def restrictMrs (rd : Reg) : Option Unpredictable := firstReason [(rd == 15, .mrsPc)]

/-- R492 for the register form of MSR. -/
def restrictMsrReg (rm : Reg) : Option Unpredictable := firstReason [(rm == 15, .msrPc)]

/-- R521 for MCR. -/
def restrictMcr (rd : Reg) : Option Unpredictable := firstReason [(rd == 15, .mcrPc)]

/-- R521 for LDC and STC. -/
def restrictCpTransfer (p w : Bool) (rn : Reg) : Option Unpredictable :=
  firstReason [(!p && !w, .cpUnindexed), (w && rn == 15, .writeBackPc)]

/-- The reason the spec refuses an instruction, if it does. CDP, MRC, branches, SWI and the undefined words are never
refused. -/
def unpredictable : Instr → Option Unpredictable
  | .b _ _ => none
  | .bl _ _ => none
  | .swi _ _ => none
  | .mul _ _ rd sbz rs rm => restrictMul rd sbz rs rm
  | .mla _ _ rd rn rs rm => restrictMla rd rn rs rm
  | .umull _ _ rdHi rdLo rs rm => restrictLongMul rdHi rdLo rs rm
  | .umlal _ _ rdHi rdLo rs rm => restrictLongMul rdHi rdLo rs rm
  | .smull _ _ rdHi rdLo rs rm => restrictLongMul rdHi rdLo rs rm
  | .smlal _ _ rdHi rdLo rs rm => restrictLongMul rdHi rdLo rs rm
  | .and _ _ rn rd op => restrictDp rn rd op
  | .eor _ _ rn rd op => restrictDp rn rd op
  | .sub _ _ rn rd op => restrictDp rn rd op
  | .rsb _ _ rn rd op => restrictDp rn rd op
  | .add _ _ rn rd op => restrictDp rn rd op
  | .adc _ _ rn rd op => restrictDp rn rd op
  | .sbc _ _ rn rd op => restrictDp rn rd op
  | .rsc _ _ rn rd op => restrictDp rn rd op
  | .tst _ rn sbz op => restrictDpSbz sbz rn op
  | .teq _ rn sbz op => restrictDpSbz sbz rn op
  | .cmp _ rn sbz op => restrictDpSbz sbz rn op
  | .cmn _ rn sbz op => restrictDpSbz sbz rn op
  | .orr _ _ rn rd op => restrictDp rn rd op
  | .mov _ _ sbz rd op => restrictDpSbz sbz rd op
  | .bic _ _ rn rd op => restrictDp rn rd op
  | .mvn _ _ sbz rd op => restrictDpSbz sbz rd op
  | .ldr _ ix _ rn rd off => restrictSingle false ix rn rd off
  | .str _ ix _ rn rd off => restrictSingle false ix rn rd off
  | .ldrb _ ix _ rn rd off => restrictSingle true ix rn rd off
  | .strb _ ix _ rn rd off => restrictSingle true ix rn rd off
  | .ldrt _ _ rn rd off => restrictSingle false .post rn rd off
  | .strt _ _ rn rd off => restrictSingle false .post rn rd off
  | .ldrbt _ _ rn rd off => restrictSingle true .post rn rd off
  | .strbt _ _ rn rd off => restrictSingle true .post rn rd off
  | .strh _ p _ w rn rd off => restrictHalf p w rn rd off
  | .ldrh _ p _ w rn rd off => restrictHalf p w rn rd off
  | .ldrsb _ p _ w rn rd off => restrictHalf p w rn rd off
  | .ldrsh _ p _ w rn rd off => restrictHalf p w rn rd off
  | .ldmia _ s w rn list => restrictLdm s w rn list
  | .ldmib _ s w rn list => restrictLdm s w rn list
  | .ldmda _ s w rn list => restrictLdm s w rn list
  | .ldmdb _ s w rn list => restrictLdm s w rn list
  | .stmia _ s w rn list => restrictStm s w rn list
  | .stmib _ s w rn list => restrictStm s w rn list
  | .stmda _ s w rn list => restrictStm s w rn list
  | .stmdb _ s w rn list => restrictStm s w rn list
  | .swp _ rn rd rm => restrictSwap rn rd rm
  | .swpb _ rn rd rm => restrictSwap rn rd rm
  | .mrsCpsr _ rd => restrictMrs rd
  | .mrsSpsr _ rd => restrictMrs rd
  | .msrReg _ _ _ rm => restrictMsrReg rm
  | .msrImm _ _ _ _ _ => none
  | .cdp _ _ _ _ _ _ _ => none
  | .ldc _ p _ _ w rn _ _ _ => restrictCpTransfer p w rn
  | .stc _ p _ _ w rn _ _ _ => restrictCpTransfer p w rn
  | .mcr _ _ _ rd _ _ _ => restrictMcr rd
  | .mrc _ _ _ _ _ _ _ => none
  | .undefined _ => none

end Sys2Proof.Machine
end

