-- ==== Sys2Proof/Machine/State.lean ====
section
/-! DEFINITION. The state of the machine as plain data: everything spec 10_state.md names (R30 to R81), the bus
sequencer and cache of 20_memory.md, the coprocessor port and the plug-ins' states of 48_coprocessor.md, the inputs from
outside, and the model's own counter of free values; the faults, the refusals, and the state after reset. -/

namespace Sys2Proof.Machine

/-- The seven processor modes (R30). -/
inductive Mode where
  | usr | fiq | irq | svc | abt | und | sys
  deriving DecidableEq, Repr

/-- The register banks (R30, R34): User and System share one. -/
inductive Bank where
  | usr | fiq | irq | svc | abt | und
  deriving DecidableEq, Repr

/-- The CPSR (R50). Its reserved bits 27:8 and its T bit read as zero and cannot be set, and an invalid mode cannot be
written (R31), so the fields are the register. -/
structure Psr where
  n    : Bool
  z    : Bool
  c    : Bool
  v    : Bool
  i    : Bool
  f    : Bool
  mode : Mode
  deriving DecidableEq, Repr

/-- A word in the instruction pipe and whether it was fetched from memory (R70; `ok = false` is a poisoned fetch,
40_sequencer.md R227). -/
structure Fetched where
  word : Word
  ok   : Bool
  deriving DecidableEq, Repr

/-- The instruction pipe (R70, 40_sequencer.md R226). `next` is the instruction in the next queue, `ip` with `ipAddr`
the pipe register, `valid` is false while both are empty (after reset, and inside a refill). The next queue itself
is the recipe of `next.word` (R222); at the cycle level its control words stand in `Sequencer.nextQ`. -/
structure Pipe where
  valid     : Bool
  next      : Fetched
  ipAddr    : Word
  ip        : Fetched
  fetchAddr : Word
  deriving DecidableEq, Repr

/-- One valid line slot of the cache: its tag and its words (R76, 20_memory.md R122). -/
structure CacheLine where
  tag   : Nat
  words : List Word
  deriving DecidableEq, Repr

/-- The cache (R76): the valid line slots by slot number, rising, and the round-robin counters that are not zero, by
index, rising (20_memory.md R126). What an invalid slot holds cannot be reached (R128) and is not listed. -/
structure Cache where
  lines : List (Nat × CacheLine)
  rr    : List (Nat × Nat)
  deriving DecidableEq, Repr

/-- The interrupt latches (R73). -/
structure IrqLatch where
  prevNIRQ   : Bool
  prevNFIQ   : Bool
  irqPending : Bool
  fiqPending : Bool
  deriving DecidableEq, Repr

/-- The two active-low interrupt lines (60_exceptions.md R561). -/
structure Lines where
  nIRQ : Bool
  nFIQ : Bool
  deriving DecidableEq, Repr

/-- What the platform drives in one cycle or step: the interrupt levels (R576) and a peripheral's reset line (R601). -/
structure Input where
  nIRQ  : Bool
  nFIQ  : Bool
  reset : Bool
  deriving DecidableEq, Repr

/-- The multiply unit (R72). -/
structure MulUnit where
  sumLo   : Word
  sumHi   : Word
  carryLo : Word
  carryHi : Word
  bc      : Bool
  mr      : Word
  k       : Nat
  md      : DWord
  signed  : Bool
  deriving DecidableEq, Repr

/-- The coprocessor port (48_coprocessor.md R513): the lines the core drives (`request`, `instr`, `dataOut`, `transfer`)
and, in `lines`, those the addressed coprocessor drove last; what the core has made of a reply in this cycle (`taken`,
`wait` between cycles: R512); the model's own record of the words driven for the current or last coprocessor instruction,
in order (`sent`), and of how many words it has moved (`moved`). -/
structure CpPort where
  request  : Bool
  instr    : Word
  dataOut  : Word
  transfer : Bool
  taken    : CpReply
  lines    : CpLines
  sent     : List Word
  moved    : Nat
  deriving DecidableEq, Repr

/-- A write the wrapper routed to peripheral space (20_memory.md R118, R153): the event, its effect unknown. -/
structure PeriphWrite where
  addr  : Word
  data  : Word
  width : Width
  deriving DecidableEq, Repr

/-- The sequencer (R70): the current and the next queue, which hold the names of control words borrowed from the pool
(40_sequencer.md R224), the stage index, the address and the word of the instruction in the current queue. The
instruction level borrows no control word: both queues are empty there. -/
structure Sequencer where
  curQ    : List Nat
  nextQ   : List Nat
  idx     : Nat
  cur     : Word
  curWord : Word
  deriving DecidableEq, Repr

/-- The datapath latches (R71). -/
structure Latches where
  addrReg : Word
  dataIn  : Word
  dataOut : Word
  shC     : Bool
  deriving DecidableEq, Repr

/-- The states of the bus sequencer (R75, 20_memory.md R140). -/
inductive WState where
  | normal | readingLineSetup | readingLine | writingWord | internalWrite
  deriving DecidableEq, Repr

/-- The bus sequencer (R75). `penalty` counts the cycles left in the present state or word; `base` and `fill` are the
line-fill buffer, its word counter being `fill.length`; `done` says that the write of the present stage has been
made. The interrupt levels held during a stall are the latch's `prevNIRQ` and `prevNFIQ` (20_memory.md R155). -/
structure BusSeq where
  wstate  : WState
  penalty : Nat
  base    : Word
  fill    : List Word
  done    : Bool
  deriving DecidableEq, Repr

/-- The machine. -/
structure State where
  /-- The parameters of 00_scope.md R9, fixed while the machine runs. -/
  cfg          : Config
  /-- The 30 physical registers R0 to R14 of every bank (R35). -/
  regs         : Vector Word 30
  /-- R15: the address of the next instruction to execute (R60; `nextAddr` of R70). -/
  pc           : Word
  /-- The CPSR (R50). -/
  cpsr         : Psr
  /-- SPSR_fiq, SPSR_irq, SPSR_svc, SPSR_abt, SPSR_und (R55), all 32 bits as stored. -/
  spsr         : Vector Word 5
  /-- External memory (20_memory.md R101). -/
  mem          : Memory
  /-- The unified cache (R76, 20_memory.md R132). -/
  cache        : Cache
  /-- The instruction pipe (R70). -/
  pipe         : Pipe
  /-- The cache-flush request of an SWI callback (R75, 20_memory.md R156). -/
  flushRequest : Bool
  /-- The interrupt latches (R73). -/
  irq          : IrqLatch
  /-- The levels of the interrupt lines (R561). -/
  lines        : Lines
  /-- The levels the platform will drive, in order; when none is left the levels stay. -/
  inputs       : List Input
  /-- The multiply unit (R72). -/
  mul          : MulUnit
  /-- The coprocessor port (48_coprocessor.md R513). -/
  cp           : CpPort
  /-- What the plug-in of each slot holds (R516, 10_state.md R78). -/
  cpState      : Vector PlugInState 16
  /-- The lines each occupied slot with no plug-in given will drive, one set for each look the core takes, in order;
  when none is left they are free (R516). -/
  cpAnswers    : Vector (List CpLines) 16
  /-- What the SWI callbacks will do, in order; when none is left a callback is a function of the model's parameters
  (42_branch_swi.md R317). -/
  swiAnswers   : List SwiAnswer
  /-- The writes routed to peripheral space so far, each an event, oldest first (20_memory.md R118). -/
  periphWrites : List PeriphWrite
  /-- The micro-op sequencer (R70). -/
  seq          : Sequencer
  /-- The control-word pool (R77). -/
  pool         : Pool
  /-- The datapath latches (R71). -/
  latches      : Latches
  /-- The bus sequencer (R75). -/
  bus          : BusSeq
  /-- The model's own: how many free values (R18) have been drawn. -/
  draws        : Nat
  deriving DecidableEq, Repr

/-- The faults: the machine stops. All of them are the spec's (00_scope.md R16) and all are safe: the model stops where
the hardware is unpredictable or outside what the spec settles. -/
inductive Fault where
  /-- A data access with bit 31 clear at or above `MEM_LIMIT` (20_memory.md R101): loads, stores, swaps, block and
  coprocessor transfers. Safe. -/
  | outsideMemory
  /-- An access with bit 31 set outside every peripheral window (20_memory.md R102): the same instructions. Safe. -/
  | outsidePeripherals
  /-- An instruction fetched from peripheral space or from outside memory would execute (20_memory.md R103): any
  step. Safe. -/
  | fetchedOutsideMemory
  /-- A half-word access at an odd address (20_memory.md R112): LDRH, STRH, LDRSH. Safe. -/
  | oddHalfword
  /-- A mode value that is no mode would be written to the CPSR (10_state.md R31): MSR, exception return. Safe. -/
  | invalidMode
  /-- The T bit would be set in the CPSR (10_state.md R50): MSR, exception return. Safe. -/
  | thumbState
  /-- The SPSR is read or written in User or System mode (10_state.md R55): MRS, MSR, exception return. Safe. -/
  | noSpsr
  /-- A data-processing result with bits 1:0 not zero is written to R15 (43_data_processing.md R332). Safe. -/
  | unalignedPc
  /-- A load of R15 by LDR or LDRT from an unaligned address (45_load_store.md R418). Safe. -/
  | unalignedLoadPc
  /-- A store, or a write of an SWI callback, into the two words already fetched (70_reset_and_hazards.md R620). Safe. -/
  | prefetchWindow
  /-- More control words would be borrowed than are free (40_sequencer.md R224): a cycle of the sequencer. Safe. -/
  | poolExhausted
  /-- The sequencer finds no instruction in the next queue, which the invariant R247 excludes: a cycle of the
  sequencer. Safe. -/
  | emptyNextQueue
  deriving DecidableEq, Repr

/-- The refusals: no meaning for the instruction. -/
inductive Refusal where
  /-- The instruction is not modelled: raised by `exec`'s arms alone. Safe. -/
  | notModelled (mnemonic : String)
  /-- The word is one the architecture calls unpredictable and the spec gives no meaning (00_scope.md R17): raised by
  the meaning of every instruction that has such forms. Safe. -/
  | unpredictable (why : Unpredictable)
  deriving DecidableEq, Repr

/-- What one instruction or one step gives. -/
abbrev Result := Host.Outcome State Fault Refusal

/-- The machine right after reset (10_state.md R80, 70_reset_and_hazards.md R600): Supervisor mode, IRQ and FIQ masked,
the next fetch at address 0, nothing in the pipe, the seed recipe `[R1, R2]` (40_sequencer.md R244) and every other
control word free, no valid cache line. The registers R0 to R14, the SPSRs, the flags, the datapath latches, the line
address of a fill (`bus.base`), what the empty pipe stores and the model's own fields, for which the spec states no
value, are zero or empty (DESIGN CHOICE, log entries 1, 3, 4, 6 and 7). -/
def State.reset : State :=
  { cfg := Config.standard
    regs := Vector.replicate 30 0
    pc := 0
    cpsr := { n := false, z := false, c := false, v := false, i := true, f := true, mode := .svc }
    spsr := Vector.replicate 5 0
    mem := []
    cache := { lines := [], rr := [] }
    pipe := { valid := false, next := { word := 0, ok := false }, ipAddr := 0, ip := { word := 0, ok := false },
              fetchAddr := 0 }
    flushRequest := false
    irq := { prevNIRQ := true, prevNFIQ := true, irqPending := false, fiqPending := false }
    lines := { nIRQ := true, nFIQ := true }
    inputs := []
    mul := { sumLo := 0, sumHi := 0, carryLo := 0, carryHi := 0, bc := false, mr := 0, k := 0, md := 0,
             signed := false }
    cp := { request := false, instr := 0, dataOut := 0, transfer := false, taken := .wait, sent := [], moved := 0,
            lines := { ack := false, abort := false, busy := false, dataIn := 0, last := false } }
    cpState := Vector.replicate 16 { regs := [], control := [] }
    cpAnswers := Vector.replicate 16 []
    swiAnswers := []
    periphWrites := []
    seq := { curQ := [0, 1], nextQ := [], idx := 0, cur := 0, curWord := 0 }
    pool := seededPool Config.standard.maxInstLen
    latches := { addrReg := 0, dataIn := 0, dataOut := 0, shC := false }
    bus := { wstate := .normal, penalty := 0, base := 0, fill := [], done := false }
    draws := 0 }

end Sys2Proof.Machine
end

