-- ==== Sys2Proof/Machine/Booth.lean ====
section
/-! DEFINITION. The Booth multiplier (spec 44_multiply.md R370 to R384): the carry-save adder, the radix-4 step, four
steps a cycle, the loop and its end. -/

namespace Sys2Proof.Machine

/-- `CarrySaveAdd32` (R370): (sum, carry out). -/
def carrySaveAdd32 (a b cin : Word) : Word × Word :=
  (a ^^^ b ^^^ cin, (b &&& ~~~(a ^^^ b)) ||| (cin &&& (a ^^^ b)))

/-- `CarrySaveAdd64` (R370). -/
def carrySaveAdd64 (a b cin : DWord) : DWord × DWord :=
  (a ^^^ b ^^^ cin, (b &&& ~~~(a ^^^ b)) ||| (cin &&& (a ^^^ b)))

/-- The action of a Booth case (R372). -/
inductive BoothAction where
  | none
  | plus (shift : Nat)
  | minus (shift : Nat)
  deriving DecidableEq, Repr

/-- The case list of R372, keyed by `4 * bc + m2`, at digit `k`. -/
def boothAction (bc : Bool) (m2 : BitVec 2) (k : Nat) : BoothAction :=
  match 4 * bc.toNat + m2.toNat with
  | 0 => .none
  | 1 => .plus (2 * k)
  | 2 => .minus (2 * k + 1)
  | 3 => .minus (2 * k)
  | 4 => .plus (2 * k)
  | 5 => .plus (2 * k + 1)
  | 6 => .minus (2 * k)
  | _ => .none

/-- `S = sumHi ++ sumLo` (R372). -/
def MulUnit.sum (m : MulUnit) : DWord := m.sumHi ++ m.sumLo

/-- `C = carryHi ++ carryLo` (R372). -/
def MulUnit.carry (m : MulUnit) : DWord := m.carryHi ++ m.carryLo

/-- The accumulators written. -/
def MulUnit.withAcc (m : MulUnit) (s c : DWord) : MulUnit :=
  { m with sumLo := s.setWidth 32, sumHi := s.extractLsb' 32 32,
           carryLo := c.setWidth 32, carryHi := c.extractLsb' 32 32 }

/-- `BoothStage` (R372). -/
def boothStage (m : MulUnit) : MulUnit :=
  let m2 := m.mr.extractLsb' 0 2
  let m' : MulUnit :=
    match boothAction m.bc m2 m.k with
    | .none => m
    | .plus sh =>
      let r := carrySaveAdd64 m.sum m.carry (m.md <<< sh)
      m.withAcc r.1 (r.2 <<< 1)
    | .minus sh =>
      let r := carrySaveAdd64 m.sum m.carry (~~~(m.md <<< sh))
      m.withAcc r.1 ((r.2 <<< 1) ||| 1)
  { m' with bc := m2.getLsbD 1 }

/-- One step of `FourStageBooth`: a stage, the multiplier shifted, the digit counted (R376). -/
def boothStep (m : MulUnit) : MulUnit :=
  let m' := boothStage m
  { m' with mr := if m.signed then m.mr.sshiftRight 2 else m.mr >>> 2, k := m.k + 1 }

/-- `FourStageBooth` (R376). -/
def fourStageBooth (m : MulUnit) : MulUnit := boothStep (boothStep (boothStep (boothStep m)))

/-- `BoothDone()` (R379). -/
def boothDone (m : MulUnit) : Bool :=
  (m.mr == 0 && !m.bc) || (m.signed && m.mr == 0xFFFFFFFF#32 && m.bc)

/-- Booth initialisation (R374, R377). -/
def boothInit (signed : Bool) (rm rs : Word) : MulUnit :=
  { sumLo := 0, sumHi := 0, carryLo := 0, carryHi := 0, bc := false, mr := rs, k := 0,
    md := if signed then rm.signExtend 64 else rm.setWidth 64, signed := signed }

/-- The loop stage executed until it is done, at most `fuel` times (R378); the count of executions beside it. -/
def boothLoop : Nat → MulUnit → MulUnit × Nat
  | 0, m => (m, 0)
  | fuel + 1, m =>
    let m' := fourStageBooth m
    if boothDone m' then (m', 1)
    else
      let r := boothLoop fuel m'
      (r.1, r.2 + 1)

/-- A multiply's whole loop: at most 5 executions (R379). -/
def boothRun (signed : Bool) (rm rs : Word) : MulUnit := (boothLoop 5 (boothInit signed rm rs)).1

/-- `m` of R379, the number of loop cycles. -/
def boothCycles (signed : Bool) (rs : Word) : Nat := (boothLoop 5 (boothInit signed 0 rs)).2

/-- The accumulators cleared at the end of a multiply (R382). -/
def clearAccumulators (m : MulUnit) : MulUnit :=
  { m with sumLo := 0, sumHi := 0, carryLo := 0, carryHi := 0 }

/-- The final addition (R382): `S + C + acc`. -/
def boothSum (m : MulUnit) (acc : DWord) : DWord := m.sum + m.carry + acc

end Sys2Proof.Machine
end

