-- ==== Sys2Proof/Machine/OpcodeTable.lean ====
section
/-! DEFINITION. The opcode table (spec 30_encoding.md R202, opcode_table.json), row by row: the pattern and mask a
word must meet and the pairs that exclude it. It is written from the table alone; the decoder is written from the
class matchers of R173, and a statement says that the two agree. -/

namespace Sys2Proof.Machine

/-- One row: it accepts `w` when `w & mask = pattern` and no pair of `excludes` does (R202). -/
structure OpcodeRow where
  mnemonic : String
  pattern  : Word
  mask     : Word
  excludes : List (Word × Word)
  deriving DecidableEq, Repr

/-- Class 1 of R173. -/
def branchRows : List OpcodeRow :=
  [{ mnemonic := "B", pattern := 0x0A000000, mask := 0x0F000000,
     excludes := [] },
   { mnemonic := "BL", pattern := 0x0B000000, mask := 0x0F000000,
     excludes := [] }]

/-- Class 2 of R173. -/
def swiRows : List OpcodeRow :=
  [{ mnemonic := "SWI", pattern := 0x0F000000, mask := 0x0F000000,
     excludes := [] }]

/-- Class 3 of R173. -/
def multiplyRows : List OpcodeRow :=
  [{ mnemonic := "MUL", pattern := 0x00000090, mask := 0x0FE000F0,
     excludes := [] },
   { mnemonic := "MLA", pattern := 0x00200090, mask := 0x0FE000F0,
     excludes := [] },
   { mnemonic := "UMULL", pattern := 0x00800090, mask := 0x0FE000F0,
     excludes := [] },
   { mnemonic := "UMLAL", pattern := 0x00A00090, mask := 0x0FE000F0,
     excludes := [] },
   { mnemonic := "SMULL", pattern := 0x00C00090, mask := 0x0FE000F0,
     excludes := [] },
   { mnemonic := "SMLAL", pattern := 0x00E00090, mask := 0x0FE000F0,
     excludes := [] }]

/-- Class 4 of R173. -/
def dataProcessingRows : List OpcodeRow :=
  [{ mnemonic := "AND", pattern := 0x00000000, mask := 0x0DE00000,
     excludes := [(0x00000090, 0x02000090), (0x01000000, 0x01900000)] },
   { mnemonic := "EOR", pattern := 0x00200000, mask := 0x0DE00000,
     excludes := [(0x00000090, 0x02000090), (0x01000000, 0x01900000)] },
   { mnemonic := "SUB", pattern := 0x00400000, mask := 0x0DE00000,
     excludes := [(0x00000090, 0x02000090), (0x01000000, 0x01900000)] },
   { mnemonic := "RSB", pattern := 0x00600000, mask := 0x0DE00000,
     excludes := [(0x00000090, 0x02000090), (0x01000000, 0x01900000)] },
   { mnemonic := "ADD", pattern := 0x00800000, mask := 0x0DE00000,
     excludes := [(0x00000090, 0x02000090), (0x01000000, 0x01900000)] },
   { mnemonic := "ADC", pattern := 0x00A00000, mask := 0x0DE00000,
     excludes := [(0x00000090, 0x02000090), (0x01000000, 0x01900000)] },
   { mnemonic := "SBC", pattern := 0x00C00000, mask := 0x0DE00000,
     excludes := [(0x00000090, 0x02000090), (0x01000000, 0x01900000)] },
   { mnemonic := "RSC", pattern := 0x00E00000, mask := 0x0DE00000,
     excludes := [(0x00000090, 0x02000090), (0x01000000, 0x01900000)] },
   { mnemonic := "TST", pattern := 0x01100000, mask := 0x0DF00000,
     excludes := [(0x00000090, 0x02000090), (0x01000000, 0x01900000)] },
   { mnemonic := "TEQ", pattern := 0x01300000, mask := 0x0DF00000,
     excludes := [(0x00000090, 0x02000090), (0x01000000, 0x01900000)] },
   { mnemonic := "CMP", pattern := 0x01500000, mask := 0x0DF00000,
     excludes := [(0x00000090, 0x02000090), (0x01000000, 0x01900000)] },
   { mnemonic := "CMN", pattern := 0x01700000, mask := 0x0DF00000,
     excludes := [(0x00000090, 0x02000090), (0x01000000, 0x01900000)] },
   { mnemonic := "ORR", pattern := 0x01800000, mask := 0x0DE00000,
     excludes := [(0x00000090, 0x02000090), (0x01000000, 0x01900000)] },
   { mnemonic := "MOV", pattern := 0x01A00000, mask := 0x0DE00000,
     excludes := [(0x00000090, 0x02000090), (0x01000000, 0x01900000)] },
   { mnemonic := "BIC", pattern := 0x01C00000, mask := 0x0DE00000,
     excludes := [(0x00000090, 0x02000090), (0x01000000, 0x01900000)] },
   { mnemonic := "MVN", pattern := 0x01E00000, mask := 0x0DE00000,
     excludes := [(0x00000090, 0x02000090), (0x01000000, 0x01900000)] }]

/-- Class 5 of R173. -/
def singleTransferRows : List OpcodeRow :=
  [{ mnemonic := "LDR", pattern := 0x04100000, mask := 0x0C500000,
     excludes := [(0x02000010, 0x02000010), (0x00200000, 0x01200000)] },
   { mnemonic := "STR", pattern := 0x04000000, mask := 0x0C500000,
     excludes := [(0x02000010, 0x02000010), (0x00200000, 0x01200000)] },
   { mnemonic := "LDRB", pattern := 0x04500000, mask := 0x0C500000,
     excludes := [(0x02000010, 0x02000010), (0x00200000, 0x01200000)] },
   { mnemonic := "STRB", pattern := 0x04400000, mask := 0x0C500000,
     excludes := [(0x02000010, 0x02000010), (0x00200000, 0x01200000)] },
   { mnemonic := "LDRT", pattern := 0x04300000, mask := 0x0D700000,
     excludes := [(0x02000010, 0x02000010)] },
   { mnemonic := "STRT", pattern := 0x04200000, mask := 0x0D700000,
     excludes := [(0x02000010, 0x02000010)] },
   { mnemonic := "LDRBT", pattern := 0x04700000, mask := 0x0D700000,
     excludes := [(0x02000010, 0x02000010)] },
   { mnemonic := "STRBT", pattern := 0x04600000, mask := 0x0D700000,
     excludes := [(0x02000010, 0x02000010)] }]

/-- Class 6 of R173. -/
def halfTransferRows : List OpcodeRow :=
  [{ mnemonic := "STRH", pattern := 0x000000B0, mask := 0x0E1000F0,
     excludes := [] },
   { mnemonic := "LDRH", pattern := 0x001000B0, mask := 0x0E1000F0,
     excludes := [] },
   { mnemonic := "LDRSB", pattern := 0x001000D0, mask := 0x0E1000F0,
     excludes := [] },
   { mnemonic := "LDRSH", pattern := 0x001000F0, mask := 0x0E1000F0,
     excludes := [] }]

/-- Class 7 of R173. -/
def blockTransferRows : List OpcodeRow :=
  [{ mnemonic := "LDMIA", pattern := 0x08900000, mask := 0x0F900000,
     excludes := [] },
   { mnemonic := "LDMIB", pattern := 0x09900000, mask := 0x0F900000,
     excludes := [] },
   { mnemonic := "LDMDA", pattern := 0x08100000, mask := 0x0F900000,
     excludes := [] },
   { mnemonic := "LDMDB", pattern := 0x09100000, mask := 0x0F900000,
     excludes := [] },
   { mnemonic := "STMIA", pattern := 0x08800000, mask := 0x0F900000,
     excludes := [] },
   { mnemonic := "STMIB", pattern := 0x09800000, mask := 0x0F900000,
     excludes := [] },
   { mnemonic := "STMDA", pattern := 0x08000000, mask := 0x0F900000,
     excludes := [] },
   { mnemonic := "STMDB", pattern := 0x09000000, mask := 0x0F900000,
     excludes := [] }]

/-- Class 8 of R173. -/
def swapRows : List OpcodeRow :=
  [{ mnemonic := "SWP", pattern := 0x01000090, mask := 0x0FF00FF0,
     excludes := [] },
   { mnemonic := "SWPB", pattern := 0x01400090, mask := 0x0FF00FF0,
     excludes := [] }]

/-- Class 9 of R173. -/
def mrsRows : List OpcodeRow :=
  [{ mnemonic := "MRS_CPSR", pattern := 0x010F0000, mask := 0x0FFF0FFF,
     excludes := [] },
   { mnemonic := "MRS_SPSR", pattern := 0x014F0000, mask := 0x0FFF0FFF,
     excludes := [] }]

/-- Class 10 of R173. -/
def msrRows : List OpcodeRow :=
  [{ mnemonic := "MSR_REG", pattern := 0x0120F000, mask := 0x0FB0FFF0,
     excludes := [] },
   { mnemonic := "MSR_IMM", pattern := 0x0320F000, mask := 0x0FB0F000,
     excludes := [] }]

/-- Class 11 of R173. -/
def cdpRows : List OpcodeRow :=
  [{ mnemonic := "CDP", pattern := 0x0E000000, mask := 0x0F000010,
     excludes := [] }]

/-- Class 12 of R173. -/
def cpTransferRows : List OpcodeRow :=
  [{ mnemonic := "LDC", pattern := 0x0C100000, mask := 0x0E100000,
     excludes := [] },
   { mnemonic := "STC", pattern := 0x0C000000, mask := 0x0E100000,
     excludes := [] }]

/-- Class 13 of R173. -/
def cpRegisterRows : List OpcodeRow :=
  [{ mnemonic := "MCR", pattern := 0x0E000010, mask := 0x0F100010,
     excludes := [] },
   { mnemonic := "MRC", pattern := 0x0E100010, mask := 0x0F100010,
     excludes := [] }]

/-- The rows in the order of their classes (R202); rows of one class are disjoint. -/
def opcodeTable : List OpcodeRow :=
  branchRows ++ swiRows ++ multiplyRows ++ dataProcessingRows ++
  singleTransferRows ++ halfTransferRows ++ blockTransferRows ++ swapRows ++ mrsRows ++ msrRows ++
  cdpRows ++ cpTransferRows ++ cpRegisterRows

/-- A row accepts a word. -/
def OpcodeRow.accepts (r : OpcodeRow) (w : Word) : Bool :=
  w &&& r.mask == r.pattern && r.excludes.all fun e => w &&& e.2 != e.1

/-- The row a word belongs to: none for `cond = 1111` and for a word no row accepts (R202). -/
def tableRow (w : Word) : Option OpcodeRow :=
  if w.extractLsb' 28 4 = 0b1111#4 then none else opcodeTable.find? (·.accepts w)

/-- The mnemonic the table gives a word (R202). -/
def tableMnemonic (w : Word) : String :=
  match tableRow w with
  | some r => r.mnemonic
  | none => "UNDEFINED"

end Sys2Proof.Machine
end

