-- ==== Sys2Proof/WellFormed.lean ====
section
/-! DEFINITION. Well-formed instructions: what the spec gives a meaning (00_scope.md R17, 30_encoding.md R196, R197). -/

namespace Sys2Proof

/-- An instruction the spec gives a meaning: no refused combination of fields (R17), and an undefined word is a word
of the undefined space (R196, R202). -/
def Instr.wellFormed (i : Instr) : Bool :=
  match i with
  | .undefined w => Machine.tableRow w == none
  | _ => Machine.unpredictable i == none

end Sys2Proof
end

