-- ==== Sys2Proof/Decode.lean ====
section
/-! DEFINITION. The decoder (spec 30_encoding.md R170 to R198), total on every word, and the encoder, from the same
format tables. A word of the undefined space decodes to the undefined instruction (R196); a refused word (R17)
decodes to its instruction, which its meaning then refuses by name. -/

namespace Sys2Proof

/-- Why bytes are no instruction. -/
inductive DecodeError where
  /-- Fewer than the four bytes of an instruction (R170). -/
  | truncated
  deriving DecidableEq, Repr

/-- Condition field values (R172); `1111` is none (R171). -/
def Cond.ofCode (n : Nat) : Option Cond :=
  match n with
  | 0 => some .eq
  | 1 => some .ne
  | 2 => some .cs
  | 3 => some .cc
  | 4 => some .mi
  | 5 => some .pl
  | 6 => some .vs
  | 7 => some .vc
  | 8 => some .hi
  | 9 => some .ls
  | 10 => some .ge
  | 11 => some .lt
  | 12 => some .gt
  | 13 => some .le
  | 14 => some .al
  | _ => none

/-- The condition field (R172). -/
def Cond.code : Cond → Nat
  | .eq => 0
  | .ne => 1
  | .cs => 2
  | .cc => 3
  | .mi => 4
  | .pl => 5
  | .vs => 6
  | .vc => 7
  | .hi => 8
  | .ls => 9
  | .ge => 10
  | .lt => 11
  | .gt => 12
  | .le => 13
  | .al => 14

/-- The shift type field (R178). -/
def ShiftType.ofBits (b : BitVec 2) : ShiftType :=
  if b = 0b00#2 then .lsl else if b = 0b01#2 then .lsr else if b = 0b10#2 then .asr else .ror

/-- The shift type field (R178). -/
def ShiftType.code : ShiftType → Nat
  | .lsl => 0
  | .lsr => 1
  | .asr => 2
  | .ror => 3

/-- A register field whose lowest bit is bit `lo` (R195). -/
def regAt (w : Word) (lo : Nat) : Reg := ⟨(w.extractLsb' lo 4).toNat, (w.extractLsb' lo 4).isLt⟩

/-- A coprocessor number field (R185). -/
def cpAt (w : Word) : Fin 16 := regAt w 8

/-- Class 1 of R173. -/
def isBranch (w : Word) : Bool := w.extractLsb' 25 3 == 0b101#3

/-- Class 2 of R173. -/
def isSwi (w : Word) : Bool := w.extractLsb' 24 4 == 0b1111#4

/-- Class 3 of R173. -/
def isMultiply (w : Word) : Bool := w.extractLsb' 24 4 == 0b0000#4 && w.extractLsb' 4 4 == 0b1001#4

/-- Class 4 of R173, with its two exclusions. -/
def isDataProcessing (w : Word) : Bool :=
  w.extractLsb' 26 2 == 0b00#2 && !(!w.getLsbD 25 && w.getLsbD 7 && w.getLsbD 4) &&
    !(w.extractLsb' 23 2 == 0b10#2 && !w.getLsbD 20)

/-- Class 5 of R173, with its exclusion. -/
def isSingleTransfer (w : Word) : Bool :=
  w.extractLsb' 26 2 == 0b01#2 && !(w.getLsbD 25 && w.getLsbD 4)

/-- Class 6 of R173. -/
def isHalfTransfer (w : Word) : Bool :=
  w.extractLsb' 25 3 == 0b000#3 && w.getLsbD 7 && w.getLsbD 4 && w.extractLsb' 5 2 != 0b00#2

/-- Class 7 of R173. -/
def isBlockTransfer (w : Word) : Bool := w.extractLsb' 25 3 == 0b100#3

/-- Class 8 of R173. -/
def isSwap (w : Word) : Bool :=
  w.extractLsb' 23 5 == 0b00010#5 && w.extractLsb' 20 2 == 0b00#2 && w.extractLsb' 4 8 == 0b00001001#8

/-- Class 9 of R173. -/
def isMrs (w : Word) : Bool :=
  w.extractLsb' 23 5 == 0b00010#5 && w.extractLsb' 16 6 == 0b001111#6 && w.extractLsb' 0 12 == 0#12

/-- Class 10 of R173, register form. -/
def isMsrReg (w : Word) : Bool :=
  w.extractLsb' 23 5 == 0b00010#5 && w.extractLsb' 20 2 == 0b10#2 && w.extractLsb' 4 12 == 0b111100000000#12

/-- Class 10 of R173, immediate form. -/
def isMsrImm (w : Word) : Bool :=
  w.extractLsb' 23 5 == 0b00110#5 && w.extractLsb' 20 2 == 0b10#2 && w.extractLsb' 12 4 == 0b1111#4

/-- Class 11 of R173. -/
def isCpOperation (w : Word) : Bool := w.extractLsb' 24 4 == 0b1110#4 && !w.getLsbD 4

/-- Class 12 of R173. -/
def isCpTransfer (w : Word) : Bool := w.extractLsb' 25 3 == 0b110#3

/-- Class 13 of R173. -/
def isCpRegister (w : Word) : Bool := w.extractLsb' 24 4 == 0b1110#4 && w.getLsbD 4

/-- The operand field of a data-processing word (R178). -/
def operand2Of (w : Word) : Operand2 :=
  if w.getLsbD 25 then .imm (w.extractLsb' 8 4) (w.extractLsb' 0 8)
  else if w.getLsbD 4 then .regShift (regAt w 0) (.ofBits (w.extractLsb' 5 2)) (regAt w 8)
  else .immShift (regAt w 0) (.ofBits (w.extractLsb' 5 2)) (w.extractLsb' 7 5)

/-- The offset field of a single-word transfer (R179). -/
def offsetOf (w : Word) : Offset :=
  if w.getLsbD 25 then .reg (regAt w 0) (.ofBits (w.extractLsb' 5 2)) (w.extractLsb' 7 5)
  else .imm (w.extractLsb' 0 12)

/-- The offset fields of a half-word transfer (R180): `immH ++ immL` or `Rm`. -/
def halfOffsetOf (w : Word) : HalfOffset :=
  if w.getLsbD 22 then .imm (BitVec.ofNat 8 ((w.extractLsb' 8 4).toNat * 16 + (w.extractLsb' 0 4).toNat))
  else .reg (w.extractLsb' 8 4) (regAt w 0)

/-- The indexing of a single-word transfer from `P` and `W` (R179). -/
def indexingOf (w : Word) : Indexing :=
  if w.getLsbD 24 then (if w.getLsbD 21 then .pre else .offset) else .post

/-- R175. -/
def decodeBranch (c : Cond) (w : Word) : Instr :=
  if w.getLsbD 24 then .bl c (w.extractLsb' 0 24) else .b c (w.extractLsb' 0 24)

/-- R177, R174: opcodes `010` and `011` are undefined. -/
def decodeMultiply (c : Cond) (w : Word) : Instr :=
  let s := w.getLsbD 20
  let op3 := w.extractLsb' 21 3
  if op3 = 0b000#3 then .mul c s (regAt w 16) (w.extractLsb' 12 4) (regAt w 8) (regAt w 0)
  else if op3 = 0b001#3 then .mla c s (regAt w 16) (regAt w 12) (regAt w 8) (regAt w 0)
  else if op3 = 0b100#3 then .umull c s (regAt w 16) (regAt w 12) (regAt w 8) (regAt w 0)
  else if op3 = 0b101#3 then .umlal c s (regAt w 16) (regAt w 12) (regAt w 8) (regAt w 0)
  else if op3 = 0b110#3 then .smull c s (regAt w 16) (regAt w 12) (regAt w 8) (regAt w 0)
  else if op3 = 0b111#3 then .smlal c s (regAt w 16) (regAt w 12) (regAt w 8) (regAt w 0)
  else .undefined w

/-- R178. -/
def decodeDataProcessing (c : Cond) (w : Word) : Instr :=
  let s := w.getLsbD 20
  let rn := regAt w 16
  let rd := regAt w 12
  let op := operand2Of w
  let opcode := w.extractLsb' 21 4
  if opcode = 0b0000#4 then .and c s rn rd op
  else if opcode = 0b0001#4 then .eor c s rn rd op
  else if opcode = 0b0010#4 then .sub c s rn rd op
  else if opcode = 0b0011#4 then .rsb c s rn rd op
  else if opcode = 0b0100#4 then .add c s rn rd op
  else if opcode = 0b0101#4 then .adc c s rn rd op
  else if opcode = 0b0110#4 then .sbc c s rn rd op
  else if opcode = 0b0111#4 then .rsc c s rn rd op
  else if opcode = 0b1000#4 then .tst c rn (w.extractLsb' 12 4) op
  else if opcode = 0b1001#4 then .teq c rn (w.extractLsb' 12 4) op
  else if opcode = 0b1010#4 then .cmp c rn (w.extractLsb' 12 4) op
  else if opcode = 0b1011#4 then .cmn c rn (w.extractLsb' 12 4) op
  else if opcode = 0b1100#4 then .orr c s rn rd op
  else if opcode = 0b1101#4 then .mov c s (w.extractLsb' 16 4) rd op
  else if opcode = 0b1110#4 then .bic c s rn rd op
  else .mvn c s (w.extractLsb' 16 4) rd op

/-- R179: bit 22 is `B`, bit 20 is `L`; post-indexed with `W = 1` is the User-mode form. -/
def decodeSingleTransfer (c : Cond) (w : Word) : Instr :=
  let u := w.getLsbD 23
  let rn := regAt w 16
  let rd := regAt w 12
  let off := offsetOf w
  let ix := indexingOf w
  if !w.getLsbD 24 && w.getLsbD 21 then
    if w.getLsbD 22 then
      (if w.getLsbD 20 then .ldrbt c u rn rd off else .strbt c u rn rd off)
    else
      (if w.getLsbD 20 then .ldrt c u rn rd off else .strt c u rn rd off)
  else if w.getLsbD 22 then
    (if w.getLsbD 20 then .ldrb c ix u rn rd off else .strb c ix u rn rd off)
  else
    (if w.getLsbD 20 then .ldr c ix u rn rd off else .str c ix u rn rd off)

/-- R180, R174: `L = 0` with `S = 1` is undefined. Bits 6 and 5 are `S` and `H`. -/
def decodeHalfTransfer (c : Cond) (w : Word) : Instr :=
  let p := w.getLsbD 24
  let u := w.getLsbD 23
  let wb := w.getLsbD 21
  let rn := regAt w 16
  let rd := regAt w 12
  let off := halfOffsetOf w
  if w.getLsbD 20 then
    if w.getLsbD 6 then
      (if w.getLsbD 5 then .ldrsh c p u wb rn rd off else .ldrsb c p u wb rn rd off)
    else .ldrh c p u wb rn rd off
  else if w.getLsbD 6 then .undefined w
  else .strh c p u wb rn rd off

/-- R181: bits 24 and 23 are `P` and `U`, bit 20 is `L`. -/
def decodeBlockTransfer (c : Cond) (w : Word) : Instr :=
  let s := w.getLsbD 22
  let wb := w.getLsbD 21
  let rn := regAt w 16
  let list := w.extractLsb' 0 16
  let pu := w.extractLsb' 23 2
  if w.getLsbD 20 then
    if pu = 0b01#2 then .ldmia c s wb rn list
    else if pu = 0b11#2 then .ldmib c s wb rn list
    else if pu = 0b00#2 then .ldmda c s wb rn list
    else .ldmdb c s wb rn list
  else
    if pu = 0b01#2 then .stmia c s wb rn list
    else if pu = 0b11#2 then .stmib c s wb rn list
    else if pu = 0b00#2 then .stmda c s wb rn list
    else .stmdb c s wb rn list

/-- R182. -/
def decodeSwap (c : Cond) (w : Word) : Instr :=
  if w.getLsbD 22 then .swpb c (regAt w 16) (regAt w 12) (regAt w 0)
  else .swp c (regAt w 16) (regAt w 12) (regAt w 0)

/-- R183. -/
def decodeMrs (c : Cond) (w : Word) : Instr :=
  if w.getLsbD 22 then .mrsSpsr c (regAt w 12) else .mrsCpsr c (regAt w 12)

/-- The `R` bit of a PSR transfer (R184). -/
def psrSelOf (w : Word) : PsrSel := if w.getLsbD 22 then .spsr else .cpsr

/-- R186. -/
def decodeCpTransfer (c : Cond) (w : Word) : Instr :=
  if w.getLsbD 20 then
    .ldc c (w.getLsbD 24) (w.getLsbD 23) (w.getLsbD 22) (w.getLsbD 21) (regAt w 16) (w.extractLsb' 12 4) (cpAt w)
      (w.extractLsb' 0 8)
  else
    .stc c (w.getLsbD 24) (w.getLsbD 23) (w.getLsbD 22) (w.getLsbD 21) (regAt w 16) (w.extractLsb' 12 4) (cpAt w)
      (w.extractLsb' 0 8)

/-- R187. -/
def decodeCpRegister (c : Cond) (w : Word) : Instr :=
  if w.getLsbD 20 then
    .mrc c (w.extractLsb' 21 3) (w.extractLsb' 16 4) (regAt w 12) (cpAt w) (w.extractLsb' 5 3) (w.extractLsb' 0 4)
  else
    .mcr c (w.extractLsb' 21 3) (w.extractLsb' 16 4) (regAt w 12) (cpAt w) (w.extractLsb' 5 3) (w.extractLsb' 0 4)

/-- The class matchers in the source's priority order (R173). -/
def decodeClass (c : Cond) (w : Word) : Instr :=
  if isBranch w then decodeBranch c w
  else if isSwi w then .swi c (w.extractLsb' 0 24)
  else if isMultiply w then decodeMultiply c w
  else if isDataProcessing w then decodeDataProcessing c w
  else if isSingleTransfer w then decodeSingleTransfer c w
  else if isHalfTransfer w then decodeHalfTransfer c w
  else if isBlockTransfer w then decodeBlockTransfer c w
  else if isSwap w then decodeSwap c w
  else if isMrs w then decodeMrs c w
  else if isMsrReg w then .msrReg c (psrSelOf w) (w.extractLsb' 16 4) (regAt w 0)
  else if isMsrImm w then .msrImm c (psrSelOf w) (w.extractLsb' 16 4) (w.extractLsb' 8 4) (w.extractLsb' 0 8)
  else if isCpOperation w then
    .cdp c (w.extractLsb' 20 4) (w.extractLsb' 16 4) (w.extractLsb' 12 4) (cpAt w) (w.extractLsb' 5 3)
      (w.extractLsb' 0 4)
  else if isCpTransfer w then decodeCpTransfer c w
  else if isCpRegister w then decodeCpRegister c w
  else .undefined w

/-- The decoder (R170, R171): `cond = 1111` comes before every class matcher. -/
def decode (w : Word) : Instr :=
  match Cond.ofCode (w.extractLsb' 28 4).toNat with
  | none => .undefined w
  | some c => decodeClass c w

/-- A word from its bytes, the lowest address first (20_memory.md R105). -/
def wordOfBytes (b0 b1 b2 b3 : Byte) : Word :=
  BitVec.ofNat 32 (b0.toNat + b1.toNat * 2 ^ 8 + b2.toNat * 2 ^ 16 + b3.toNat * 2 ^ 24)

/-- Byte lane `k` of a word (20_memory.md R105). -/
def byteOf (w : Word) (k : Nat) : Byte := w.extractLsb' (8 * k) 8

/-- The decoder on bytes as memory holds them (R170, 20_memory.md R105): the instruction and the bytes after it. -/
def decodeBytes : List Byte → Except DecodeError (Instr × List Byte)
  | b0 :: b1 :: b2 :: b3 :: rest => .ok (decode (wordOfBytes b0 b1 b2 b3), rest)
  | _ => .error .truncated

/-- The four bytes of a word as memory holds them. -/
def bytesOf (w : Word) : List Byte := [byteOf w 0, byteOf w 1, byteOf w 2, byteOf w 3]

/-- What the decoder reads from an instruction given as the opcode table numbers its bits. -/
def decodeTableWord (nbits w : Nat) : Option Instr :=
  match decodeBytes (bytesOf (BitVec.ofNat 32 (w % 2 ^ nbits))) with
  | .ok (i, _) => some i
  | .error _ => none

/-- The mnemonic of an instruction, as the opcode table spells it. -/
def Instr.mnemonic : Instr → String
  | .b _ _ => "B"
  | .bl _ _ => "BL"
  | .swi _ _ => "SWI"
  | .mul _ _ _ _ _ _ => "MUL"
  | .mla _ _ _ _ _ _ => "MLA"
  | .umull _ _ _ _ _ _ => "UMULL"
  | .umlal _ _ _ _ _ _ => "UMLAL"
  | .smull _ _ _ _ _ _ => "SMULL"
  | .smlal _ _ _ _ _ _ => "SMLAL"
  | .and _ _ _ _ _ => "AND"
  | .eor _ _ _ _ _ => "EOR"
  | .sub _ _ _ _ _ => "SUB"
  | .rsb _ _ _ _ _ => "RSB"
  | .add _ _ _ _ _ => "ADD"
  | .adc _ _ _ _ _ => "ADC"
  | .sbc _ _ _ _ _ => "SBC"
  | .rsc _ _ _ _ _ => "RSC"
  | .tst _ _ _ _ => "TST"
  | .teq _ _ _ _ => "TEQ"
  | .cmp _ _ _ _ => "CMP"
  | .cmn _ _ _ _ => "CMN"
  | .orr _ _ _ _ _ => "ORR"
  | .mov _ _ _ _ _ => "MOV"
  | .bic _ _ _ _ _ => "BIC"
  | .mvn _ _ _ _ _ => "MVN"
  | .ldr _ _ _ _ _ _ => "LDR"
  | .str _ _ _ _ _ _ => "STR"
  | .ldrb _ _ _ _ _ _ => "LDRB"
  | .strb _ _ _ _ _ _ => "STRB"
  | .ldrt _ _ _ _ _ => "LDRT"
  | .strt _ _ _ _ _ => "STRT"
  | .ldrbt _ _ _ _ _ => "LDRBT"
  | .strbt _ _ _ _ _ => "STRBT"
  | .strh _ _ _ _ _ _ _ => "STRH"
  | .ldrh _ _ _ _ _ _ _ => "LDRH"
  | .ldrsb _ _ _ _ _ _ _ => "LDRSB"
  | .ldrsh _ _ _ _ _ _ _ => "LDRSH"
  | .ldmia _ _ _ _ _ => "LDMIA"
  | .ldmib _ _ _ _ _ => "LDMIB"
  | .ldmda _ _ _ _ _ => "LDMDA"
  | .ldmdb _ _ _ _ _ => "LDMDB"
  | .stmia _ _ _ _ _ => "STMIA"
  | .stmib _ _ _ _ _ => "STMIB"
  | .stmda _ _ _ _ _ => "STMDA"
  | .stmdb _ _ _ _ _ => "STMDB"
  | .swp _ _ _ _ => "SWP"
  | .swpb _ _ _ _ => "SWPB"
  | .mrsCpsr _ _ => "MRS_CPSR"
  | .mrsSpsr _ _ => "MRS_SPSR"
  | .msrReg _ _ _ _ => "MSR_REG"
  | .msrImm _ _ _ _ _ => "MSR_IMM"
  | .cdp _ _ _ _ _ _ _ => "CDP"
  | .ldc _ _ _ _ _ _ _ _ _ => "LDC"
  | .stc _ _ _ _ _ _ _ _ _ => "STC"
  | .mcr _ _ _ _ _ _ _ => "MCR"
  | .mrc _ _ _ _ _ _ _ => "MRC"
  | .undefined _ => "UNDEFINED"

/-- Fields as (lowest bit, value) pairs, summed. -/
def sumFields : List (Nat × Nat) → Nat
  | [] => 0
  | (lo, v) :: rest => v * 2 ^ lo + sumFields rest

/-- A word from its condition and its other fields. -/
def wordOf (c : Cond) (fields : List (Nat × Nat)) : Word :=
  BitVec.ofNat 32 (c.code * 2 ^ 28 + sumFields fields)

/-- The operand fields (R178). -/
def Operand2.fields : Operand2 → List (Nat × Nat)
  | .imm rot imm8 => [(25, 1), (8, rot.toNat), (0, imm8.toNat)]
  | .immShift rm ty amount => [(7, amount.toNat), (5, ty.code), (0, rm.val)]
  | .regShift rm ty rs => [(8, rs.val), (5, ty.code), (4, 1), (0, rm.val)]

/-- The offset fields (R179). -/
def Offset.fields : Offset → List (Nat × Nat)
  | .imm imm12 => [(0, imm12.toNat)]
  | .reg rm ty amount => [(25, 1), (7, amount.toNat), (5, ty.code), (0, rm.val)]

/-- The offset fields (R180). -/
def HalfOffset.fields : HalfOffset → List (Nat × Nat)
  | .imm imm8 => [(22, 1), (8, imm8.toNat / 16), (0, imm8.toNat % 16)]
  | .reg sbz rm => [(8, sbz.toNat), (0, rm.val)]

/-- `P` and `W` (R179). -/
def Indexing.fields : Indexing → List (Nat × Nat)
  | .offset => [(24, 1)]
  | .pre => [(24, 1), (21, 1)]
  | .post => []

/-- R178 with register fields `rn` and `rd` as they stand in the word. -/
def encodeDp (c : Cond) (opcode : Nat) (s : Bool) (rn rd : Nat) (op : Operand2) : Word :=
  wordOf c ([(21, opcode), (20, s.toNat), (16, rn), (12, rd)] ++ op.fields)

/-- R177. -/
def encodeMul (c : Cond) (op3 : Nat) (s : Bool) (hi lo : Nat) (rs rm : Reg) : Word :=
  wordOf c [(21, op3), (20, s.toNat), (16, hi), (12, lo), (8, rs.val), (4, 0b1001), (0, rm.val)]

/-- R179. -/
def encodeSingle (c : Cond) (ix : List (Nat × Nat)) (u : Bool) (byte load : Nat) (rn rd : Reg) (off : Offset) : Word :=
  wordOf c ([(26, 0b01), (23, u.toNat), (22, byte), (20, load), (16, rn.val), (12, rd.val)] ++ ix ++ off.fields)

/-- R180. -/
def encodeHalf (c : Cond) (p u w : Bool) (load sh : Nat) (rn rd : Reg) (off : HalfOffset) : Word :=
  wordOf c ([(24, p.toNat), (23, u.toNat), (21, w.toNat), (20, load), (16, rn.val), (12, rd.val), (7, 1), (5, sh),
    (4, 1)] ++ off.fields)

/-- R181. -/
def encodeBlock (c : Cond) (pu : Nat) (s w : Bool) (load : Nat) (rn : Reg) (list : BitVec 16) : Word :=
  wordOf c [(25, 0b100), (23, pu), (22, s.toNat), (21, w.toNat), (20, load), (16, rn.val), (0, list.toNat)]

/-- R182. -/
def encodeSwap (c : Cond) (byte : Nat) (rn rd rm : Reg) : Word :=
  wordOf c [(23, 0b00010), (22, byte), (16, rn.val), (12, rd.val), (4, 0b1001), (0, rm.val)]

/-- R183. -/
def encodeMrs (c : Cond) (r : Nat) (rd : Reg) : Word :=
  wordOf c [(23, 0b00010), (22, r), (16, 0b001111), (12, rd.val)]

/-- The `R` bit (R184). -/
def PsrSel.code : PsrSel → Nat
  | .cpsr => 0
  | .spsr => 1

/-- R186. -/
def encodeCpTransfer (c : Cond) (p u n w : Bool) (load : Nat) (rn : Reg) (crd : BitVec 4) (cp : Fin 16)
    (imm8 : Byte) : Word :=
  wordOf c [(25, 0b110), (24, p.toNat), (23, u.toNat), (22, n.toNat), (21, w.toNat), (20, load), (16, rn.val),
    (12, crd.toNat), (8, cp.val), (0, imm8.toNat)]

/-- R187. -/
def encodeCpRegister (c : Cond) (load : Nat) (op1 : BitVec 3) (crn : BitVec 4) (rd : Reg) (cp : Fin 16)
    (op2 : BitVec 3) (crm : BitVec 4) : Word :=
  wordOf c [(24, 0b1110), (21, op1.toNat), (20, load), (16, crn.toNat), (12, rd.val), (8, cp.val), (5, op2.toNat),
    (4, 1), (0, crm.toNat)]

/-- The word of an instruction (R175 to R187). -/
def encode : Instr → Word
  | .b c imm24 => wordOf c [(25, 0b101), (0, imm24.toNat)]
  | .bl c imm24 => wordOf c [(25, 0b101), (24, 1), (0, imm24.toNat)]
  | .swi c comment => wordOf c [(24, 0b1111), (0, comment.toNat)]
  | .mul c s rd sbz rs rm => encodeMul c 0b000 s rd.val sbz.toNat rs rm
  | .mla c s rd rn rs rm => encodeMul c 0b001 s rd.val rn.val rs rm
  | .umull c s rdHi rdLo rs rm => encodeMul c 0b100 s rdHi.val rdLo.val rs rm
  | .umlal c s rdHi rdLo rs rm => encodeMul c 0b101 s rdHi.val rdLo.val rs rm
  | .smull c s rdHi rdLo rs rm => encodeMul c 0b110 s rdHi.val rdLo.val rs rm
  | .smlal c s rdHi rdLo rs rm => encodeMul c 0b111 s rdHi.val rdLo.val rs rm
  | .and c s rn rd op => encodeDp c 0b0000 s rn.val rd.val op
  | .eor c s rn rd op => encodeDp c 0b0001 s rn.val rd.val op
  | .sub c s rn rd op => encodeDp c 0b0010 s rn.val rd.val op
  | .rsb c s rn rd op => encodeDp c 0b0011 s rn.val rd.val op
  | .add c s rn rd op => encodeDp c 0b0100 s rn.val rd.val op
  | .adc c s rn rd op => encodeDp c 0b0101 s rn.val rd.val op
  | .sbc c s rn rd op => encodeDp c 0b0110 s rn.val rd.val op
  | .rsc c s rn rd op => encodeDp c 0b0111 s rn.val rd.val op
  | .tst c rn sbz op => encodeDp c 0b1000 true rn.val sbz.toNat op
  | .teq c rn sbz op => encodeDp c 0b1001 true rn.val sbz.toNat op
  | .cmp c rn sbz op => encodeDp c 0b1010 true rn.val sbz.toNat op
  | .cmn c rn sbz op => encodeDp c 0b1011 true rn.val sbz.toNat op
  | .orr c s rn rd op => encodeDp c 0b1100 s rn.val rd.val op
  | .mov c s sbz rd op => encodeDp c 0b1101 s sbz.toNat rd.val op
  | .bic c s rn rd op => encodeDp c 0b1110 s rn.val rd.val op
  | .mvn c s sbz rd op => encodeDp c 0b1111 s sbz.toNat rd.val op
  | .ldr c ix u rn rd off => encodeSingle c ix.fields u 0 1 rn rd off
  | .str c ix u rn rd off => encodeSingle c ix.fields u 0 0 rn rd off
  | .ldrb c ix u rn rd off => encodeSingle c ix.fields u 1 1 rn rd off
  | .strb c ix u rn rd off => encodeSingle c ix.fields u 1 0 rn rd off
  | .ldrt c u rn rd off => encodeSingle c [(21, 1)] u 0 1 rn rd off
  | .strt c u rn rd off => encodeSingle c [(21, 1)] u 0 0 rn rd off
  | .ldrbt c u rn rd off => encodeSingle c [(21, 1)] u 1 1 rn rd off
  | .strbt c u rn rd off => encodeSingle c [(21, 1)] u 1 0 rn rd off
  | .strh c p u w rn rd off => encodeHalf c p u w 0 0b01 rn rd off
  | .ldrh c p u w rn rd off => encodeHalf c p u w 1 0b01 rn rd off
  | .ldrsb c p u w rn rd off => encodeHalf c p u w 1 0b10 rn rd off
  | .ldrsh c p u w rn rd off => encodeHalf c p u w 1 0b11 rn rd off
  | .ldmia c s w rn list => encodeBlock c 0b01 s w 1 rn list
  | .ldmib c s w rn list => encodeBlock c 0b11 s w 1 rn list
  | .ldmda c s w rn list => encodeBlock c 0b00 s w 1 rn list
  | .ldmdb c s w rn list => encodeBlock c 0b10 s w 1 rn list
  | .stmia c s w rn list => encodeBlock c 0b01 s w 0 rn list
  | .stmib c s w rn list => encodeBlock c 0b11 s w 0 rn list
  | .stmda c s w rn list => encodeBlock c 0b00 s w 0 rn list
  | .stmdb c s w rn list => encodeBlock c 0b10 s w 0 rn list
  | .swp c rn rd rm => encodeSwap c 0 rn rd rm
  | .swpb c rn rd rm => encodeSwap c 1 rn rd rm
  | .mrsCpsr c rd => encodeMrs c 0 rd
  | .mrsSpsr c rd => encodeMrs c 1 rd
  | .msrReg c r mask rm =>
    wordOf c [(23, 0b00010), (22, r.code), (20, 0b10), (16, mask.toNat), (12, 0b1111), (0, rm.val)]
  | .msrImm c r mask rot imm8 =>
    wordOf c [(23, 0b00110), (22, r.code), (20, 0b10), (16, mask.toNat), (12, 0b1111), (8, rot.toNat),
      (0, imm8.toNat)]
  | .cdp c op1 crn crd cp op2 crm =>
    wordOf c [(24, 0b1110), (20, op1.toNat), (16, crn.toNat), (12, crd.toNat), (8, cp.val), (5, op2.toNat),
      (0, crm.toNat)]
  | .ldc c p u n w rn crd cp imm8 => encodeCpTransfer c p u n w 1 rn crd cp imm8
  | .stc c p u n w rn crd cp imm8 => encodeCpTransfer c p u n w 0 rn crd cp imm8
  | .mcr c op1 crn rd cp op2 crm => encodeCpRegister c 0 op1 crn rd cp op2 crm
  | .mrc c op1 crn rd cp op2 crm => encodeCpRegister c 1 op1 crn rd cp op2 crm
  | .undefined w => w

end Sys2Proof
end

