-- ==== Sys2Proof/Machine/Memory.lean ====
section
/-! DEFINITION. External memory as a sorted list of the bytes that are not zero, words over it in little-endian order,
and the byte lanes of a bus access (spec 20_memory.md R101 to R116). -/

namespace Sys2Proof.Machine

/-- What an address that is not listed reads as: the spec states no contents for memory the loader did not fill
(70_reset_and_hazards.md R603). DESIGN CHOICE, log entry 2. -/
def unlistedByte : Byte := 0

/-- The canonical form of a memory: addresses strictly rising, no entry equal to an unlisted byte. -/
abbrev Memory.wf (m : Sys2Proof.Memory) : Prop :=
  m.Pairwise (fun a b => a.1 < b.1) ∧ ∀ c ∈ m, c.2 ≠ unlistedByte

/-- Every listed byte stands below `limit` (R101). -/
abbrev Memory.below (limit : Nat) (m : Memory) : Prop := ∀ c ∈ m, c.1 < limit

/-- The byte at an address (R105). -/
def readByte : Memory → Nat → Byte
  | [], _ => unlistedByte
  | (k, v) :: rest, a => if k = a then v else readByte rest a

/-- Memory with one byte written; the canonical form is kept. -/
def writeByte : Memory → Nat → Byte → Memory
  | [], a, v => if v = unlistedByte then [] else [(a, v)]
  | (k, w) :: rest, a, v =>
    if a < k then (if v = unlistedByte then (k, w) :: rest else (a, v) :: (k, w) :: rest)
    else if a = k then (if v = unlistedByte then rest else (a, v) :: rest)
    else (k, w) :: writeByte rest a v

/-- The word at a multiple of 4 (R105). -/
def wordAt (m : Memory) (a : Nat) : Word :=
  wordOfBytes (readByte m a) (readByte m (a + 1)) (readByte m (a + 2)) (readByte m (a + 3))

/-- `n` words at `a`, `a + 4`, … (a line fill, R145). -/
def wordsAt (m : Memory) (a : Nat) : Nat → List Word
  | 0 => []
  | n + 1 => wordAt m a :: wordsAt m (a + 4) n

/-- `a & ~3`. -/
def alignWord (a : Word) : Word := a &&& 0xFFFFFFFC#32

/-- The number of bytes of an access (R107). -/
def Width.bytes : Width → Nat
  | .byte => 1
  | .half => 2
  | .word => 4

/-- The first byte a store of a width writes (R111, R115): the address itself, its half-word, or its word. -/
def storeStart (w : Width) (a : Word) : Nat :=
  match w with
  | .byte => a.toNat
  | .half => a.toNat / 2 * 2
  | .word => a.toNat / 4 * 4

/-- The data-out bus for a store (R115). -/
def replicate (w : Width) (v : Word) : Word :=
  match w with
  | .byte => v.extractLsb' 0 8 ++ v.extractLsb' 0 8 ++ v.extractLsb' 0 8 ++ v.extractLsb' 0 8
  | .half => v.extractLsb' 0 16 ++ v.extractLsb' 0 16
  | .word => v

/-- The bytes of lanes `a mod 4`, `a + 1 mod 4`, … of a bus word written at `a`, `a + 1`, … (R105, R115). -/
def writeLanes (m : Memory) (a : Nat) (data : Word) : Nat → Memory
  | 0 => m
  | n + 1 => writeLanes (writeByte m a (byteOf data (a % 4))) (a + 1) data n

/-- Memory after a store (R111, R115). -/
def storeBytes (m : Memory) (w : Width) (a : Word) (data : Word) : Memory :=
  writeLanes m (storeStart w a) data w.bytes

/-- Address `x` is one of the bytes a store writes. -/
def storeTouches (w : Width) (a : Word) (x : Nat) : Bool :=
  storeStart w a ≤ x && x < storeStart w a + w.bytes

/-- A word with the lanes a store selects replaced (R151). -/
def mergeLanes (w : Width) (a : Word) (old data : Word) : Word :=
  let lo := storeStart w a % 4
  let lane (k : Nat) : Byte := if lo ≤ k ∧ k < lo + w.bytes then byteOf data k else byteOf old k
  wordOfBytes (lane 0) (lane 1) (lane 2) (lane 3)

/-- What a read of a width delivers from the aligned word (R110, R116). -/
def extractRead (w : Width) (a : Word) (v : Word) : Word :=
  match w with
  | .word => v.rotateRight (8 * (a.toNat % 4))
  | .half => (v.extractLsb' (16 * (a.toNat / 2 % 2)) 16).setWidth 32
  | .byte => (v.extractLsb' (8 * (a.toNat % 4)) 8).setWidth 32

/-- The bytes an SWI callback writes, in order; external memory ends at `limit` (42_branch_swi.md R317). -/
def applyWrites (limit : Nat) : Memory → List Host.Cell → Memory
  | m, [] => m
  | m, (a, v) :: rest => applyWrites limit (if a < limit then writeByte m a v else m) rest

/-- Address `x` lies in `[cur + 4, cur + 12)` (70_reset_and_hazards.md R620). -/
def inPrefetchWindow (cur : Word) (x : Nat) : Bool :=
  (BitVec.ofNat 32 x - (cur + 4)).toNat < 8

/-- A store touches the prefetch window (R620; DEDUCED, log entry 10: writing back the byte that stands there
counts). -/
def storeInWindow (cur : Word) (w : Width) (a : Word) : Bool :=
  (List.range w.bytes).any fun k => inPrefetchWindow cur (storeStart w a + k)

end Sys2Proof.Machine
end

