-- ==== Sys2Proof/Machine/Cache.lean ====
section
/-! DEFINITION. The three cache engines behind one contract (spec 20_memory.md R120 to R132): a cache is `sets` indices
by `wayCount` ways, direct-mapped being one way and fully associative one set; slot number `way * sets + index`. -/

namespace Sys2Proof.Machine

/-- The outcome of a cache operation (R121). -/
inductive CacheOutcome (α : Type) where
  | hit (v : α)
  | miss (addr : Nat)
  deriving DecidableEq, Repr

/-- `LINES` (R122). -/
def cacheLines (cfg : Config) : Nat := cfg.cacheWords / cfg.lineWords

/-- The ways of the geometry (R124, R125, R126). -/
def wayCount (cfg : Config) : Nat :=
  match cfg.cacheKind with
  | .direct => 1
  | .associative => cacheLines cfg
  | .setAssociative => cfg.ways

/-- The indices of the geometry (R124, R125, R126). -/
def setCount (cfg : Config) : Nat :=
  match cfg.cacheKind with
  | .direct => cacheLines cfg
  | .associative => 1
  | .setAssociative => cacheLines cfg / cfg.ways

/-- `off(a)` (R123). -/
def lineOffset (cfg : Config) (a : Nat) : Nat := a / 4 % cfg.lineWords

/-- `line(a)` (R123). -/
def lineNumber (cfg : Config) (a : Nat) : Nat := a / (4 * cfg.lineWords)

/-- `base(a)` (R123). -/
def lineBase (cfg : Config) (a : Nat) : Nat := lineNumber cfg a * (4 * cfg.lineWords)

/-- `index(a)` (R124, R126). -/
def lineIndex (cfg : Config) (a : Nat) : Nat := lineNumber cfg a % setCount cfg

/-- `tag(a)` (R124, R125, R126). -/
def lineTag (cfg : Config) (a : Nat) : Nat := lineNumber cfg a / setCount cfg

/-- The slot of a way for an address. -/
def slotOf (cfg : Config) (way a : Nat) : Nat := way * setCount cfg + lineIndex cfg a

/-- The line in a slot, none while its valid bit is 0. -/
def slotLine : List (Nat × CacheLine) → Nat → Option CacheLine
  | [], _ => none
  | (k, l) :: rest, n => if k = n then some l else slotLine rest n

/-- A slot filled; the list stays sorted. -/
def setSlot : List (Nat × CacheLine) → Nat → CacheLine → List (Nat × CacheLine)
  | [], n, l => [(n, l)]
  | (k, x) :: rest, n, l =>
    if n < k then (n, l) :: (k, x) :: rest
    else if n = k then (n, l) :: rest
    else (k, x) :: setSlot rest n l

/-- The slot `Read` finds: ways (or slots) in ascending order, the first valid one with the tag (R124 to R126). -/
def findSlot (cfg : Config) (c : Cache) (a : Nat) : Option Nat :=
  ((List.range (wayCount cfg)).map (slotOf cfg · a)).find? fun n =>
    match slotLine c.lines n with
    | some l => l.tag == lineTag cfg a
    | none => false

/-- `Read(a)` (R120). -/
def cacheRead (cfg : Config) (c : Cache) (a : Nat) : CacheOutcome Word :=
  match findSlot cfg c a with
  | none => .miss a
  | some n =>
    match (slotLine c.lines n).bind (·.words[lineOffset cfg a]?) with
    | some w => .hit w
    | none => .miss a

/-- `WriteWord(a, w)` (R120): a resident line updated, else a miss. -/
def cacheWriteWord (cfg : Config) (c : Cache) (a : Nat) (w : Word) : CacheOutcome Cache :=
  match findSlot cfg c a with
  | none => .miss a
  | some n =>
    match slotLine c.lines n with
    | some l => .hit { c with lines := setSlot c.lines n { l with words := l.words.set (lineOffset cfg a) w } }
    | none => .miss a

/-- `InvalidateLineByAddr(a)` (R120): no effect when the line is absent. No rule of the core calls it (R129). -/
def cacheInvalidate (cfg : Config) (c : Cache) (a : Nat) : Cache :=
  match findSlot cfg c a with
  | none => c
  | some n => { c with lines := c.lines.filter (·.1 != n) }

/-- `Reset()` (R128). -/
def cacheReset : Cache := { lines := [], rr := [] }

/-- The round-robin counter of an index (R126); one that is not listed is 0. -/
def rrGet : List (Nat × Nat) → Nat → Nat
  | [], _ => 0
  | (k, v) :: rest, n => if k = n then v else rrGet rest n

/-- A round-robin counter written; zeros are not listed. -/
def rrSet : List (Nat × Nat) → Nat → Nat → List (Nat × Nat)
  | [], n, v => if v = 0 then [] else [(n, v)]
  | (k, x) :: rest, n, v =>
    if n < k then (if v = 0 then (k, x) :: rest else (n, v) :: (k, x) :: rest)
    else if n = k then (if v = 0 then rest else (n, v) :: rest)
    else (k, x) :: rrSet rest n v

/-- The slot a fill goes to, with the counters and the draw counter after the choice: in place where the line is
resident, else the index (R124), the lowest invalid slot or a drawn one (R125), or the round-robin way (R126). -/
def victimSlot (cfg : Config) (c : Cache) (a draws : Nat) : Nat × List (Nat × Nat) × Nat :=
  match findSlot cfg c a with
  | some n => (n, c.rr, draws)
  | none =>
    match cfg.cacheKind with
    | .direct => (slotOf cfg 0 a, c.rr, draws)
    | .associative =>
      match (List.range (cacheLines cfg)).find? (fun n => (slotLine c.lines n).isNone) with
      | some n => (n, c.rr, draws)
      | none => (Config.freeSlot draws % cacheLines cfg, c.rr, draws + 1)
    | .setAssociative =>
      let way := rrGet c.rr (lineIndex cfg a)
      (slotOf cfg way a, rrSet c.rr (lineIndex cfg a) ((way + 1) % cfg.ways), draws)

/-- `WriteLine(a, words)` (R120): the cache and the draw counter after it. -/
def cacheWriteLine (cfg : Config) (c : Cache) (a : Nat) (words : List Word) (draws : Nat) : Cache × Nat :=
  let v := victimSlot cfg c a draws
  ({ lines := setSlot c.lines v.1 { tag := lineTag cfg a, words := words }, rr := v.2.1 }, v.2.2)

/-- The patch of a write-through store: a resident word takes the lanes written, a miss is skipped silently (R148,
R151). -/
def cachePatch (cfg : Config) (c : Cache) (w : Width) (a : Word) (data : Word) : Cache :=
  let base := a.toNat / 4 * 4
  match cacheRead cfg c base with
  | .miss _ => c
  | .hit old =>
    match cacheWriteWord cfg c base (mergeLanes w a old data) with
    | .hit c' => c'
    | .miss _ => c

/-- The address of word 0 of the line in a slot. -/
def slotBase (cfg : Config) (n : Nat) (l : CacheLine) : Nat :=
  (l.tag * setCount cfg + n % setCount cfg) * (4 * cfg.lineWords)

end Sys2Proof.Machine
end

