-- ==== Sys2Proof/Machine/Flags.lean ====
section
/-! DEFINITION. Condition evaluation, the ALU and the flag rules (spec 41_alu_shifter.md R260, R280 to R293,
44_multiply.md R386). -/

namespace Sys2Proof.Machine

/-- `CondPassed` (R260). -/
def condPassed (c : Cond) (p : Psr) : Bool :=
  match c with
  | .eq => p.z
  | .ne => !p.z
  | .cs => p.c
  | .cc => !p.c
  | .mi => p.n
  | .pl => !p.n
  | .vs => p.v
  | .vc => !p.v
  | .hi => p.c && !p.z
  | .ls => !p.c || p.z
  | .ge => p.n == p.v
  | .lt => p.n != p.v
  | .gt => !p.z && p.n == p.v
  | .le => p.z || p.n != p.v
  | .al => true

/-- What `AddWithCarry` returns (R281). -/
structure Sum where
  result   : Word
  carry    : Bool
  overflow : Bool
  deriving DecidableEq, Repr

/-- `AddWithCarry` (R281). -/
def addWithCarry (a b : Word) (cin : Bool) : Sum :=
  let u := a.toNat + b.toNat + cin.toNat
  let s := a.toInt + b.toInt + cin.toNat
  let result := BitVec.ofNat 32 u
  { result := result, carry := 2 ^ 32 ≤ u, overflow := result.toInt != s }

/-- The arithmetic operations as sums (R280); none for a logical operation. -/
def aluSum (op : AluOp) (a b : Word) (c : Bool) : Option Sum :=
  match op with
  | .sub => some (addWithCarry a (~~~b) true)
  | .rsb => some (addWithCarry b (~~~a) true)
  | .add => some (addWithCarry a b false)
  | .adc => some (addWithCarry a b c)
  | .sbc => some (addWithCarry a (~~~b) c)
  | .rsc => some (addWithCarry b (~~~a) c)
  | .cmp => some (addWithCarry a (~~~b) true)
  | .cmn => some (addWithCarry a b false)
  | .and => none
  | .eor => none
  | .tst => none
  | .teq => none
  | .orr => none
  | .mov => none
  | .bic => none
  | .mvn => none
  | .passA => none
  | .passB => none

/-- The logical operations (R280). -/
def aluLogical (op : AluOp) (a b : Word) : Word :=
  match op with
  | .and => a &&& b
  | .eor => a ^^^ b
  | .tst => a &&& b
  | .teq => a ^^^ b
  | .orr => a ||| b
  | .mov => b
  | .bic => a &&& ~~~b
  | .mvn => ~~~b
  | .passA => a
  | .passB => b
  | .sub => 0
  | .rsb => 0
  | .add => 0
  | .adc => 0
  | .sbc => 0
  | .rsc => 0
  | .cmp => 0
  | .cmn => 0

/-- The ALU result (R280). -/
def aluResult (op : AluOp) (a b : Word) (c : Bool) : Word :=
  match aluSum op a b c with
  | some s => s.result
  | none => aluLogical op a b

/-- The flags after a data-processing operation that writes them (R290 to R292). -/
def aluFlags (op : AluOp) (a b : Word) (shC : Bool) (p : Psr) : Psr :=
  let r := aluResult op a b p.c
  match aluSum op a b p.c with
  | some s => { p with n := r.msb, z := r == 0, c := s.carry, v := s.overflow }
  | none => { p with n := r.msb, z := r == 0, c := shC }

/-- N and Z of a 32-bit product; C is the free bit drawn for it (44_multiply.md R386). -/
def mulFlags (r : Word) (freeC : Bool) (p : Psr) : Psr :=
  { p with n := r.msb, z := r == 0, c := freeC }

/-- N and Z of a 64-bit product; C and V are the free bits drawn for it (R386). -/
def longMulFlags (r : DWord) (freeC freeV : Bool) (p : Psr) : Psr :=
  { p with n := r.msb, z := r == 0, c := freeC, v := freeV }

end Sys2Proof.Machine
end

