-- ==== Sys2Proof/Machine/Psr.lean ====
section
/-! DEFINITION. Modes, banks, the physical registers and the status registers as words (spec 10_state.md R30 to R56). -/

namespace Sys2Proof.Machine

/-- `M[4:0]` (R30). -/
def modeCode : Mode → BitVec 5
  | .usr => 0b10000
  | .fiq => 0b10001
  | .irq => 0b10010
  | .svc => 0b10011
  | .abt => 0b10111
  | .und => 0b11011
  | .sys => 0b11111

/-- The mode of a value of `M[4:0]`; any other value is invalid (R30, R31). -/
def modeOfCode (b : BitVec 5) : Option Mode :=
  if b = 0b10000#5 then some .usr
  else if b = 0b10001#5 then some .fiq
  else if b = 0b10010#5 then some .irq
  else if b = 0b10011#5 then some .svc
  else if b = 0b10111#5 then some .abt
  else if b = 0b11011#5 then some .und
  else if b = 0b11111#5 then some .sys
  else none

/-- `bank(m)` (R30). -/
def modeBank : Mode → Bank
  | .usr => .usr
  | .fiq => .fiq
  | .irq => .irq
  | .svc => .svc
  | .abt => .abt
  | .und => .und
  | .sys => .usr

/-- Every mode but User is privileged (R32). -/
def privileged : Mode → Bool
  | .usr => false
  | .fiq => true
  | .irq => true
  | .svc => true
  | .abt => true
  | .und => true
  | .sys => true

/-- The SPSR of a bank, none in User and System mode (R30, R55). -/
def spsrIndex : Bank → Option (Fin 5)
  | .usr => none
  | .fiq => some 0
  | .irq => some 1
  | .svc => some 2
  | .abt => some 3
  | .und => some 4

/-- The physical registers R0 to R14 of a bank (R35, R40): 0 to 7 are R0 to R7, 8 to 14 are R8_usr to R14_usr, 15 to 21
are R8_fiq to R14_fiq, then R13 and R14 of irq, svc, abt and und. -/
def physTable : Bank → Vector (Fin 30) 15
  | .usr => #v[0, 1, 2, 3, 4, 5, 6, 7, 8, 9, 10, 11, 12, 13, 14]
  | .fiq => #v[0, 1, 2, 3, 4, 5, 6, 7, 15, 16, 17, 18, 19, 20, 21]
  | .irq => #v[0, 1, 2, 3, 4, 5, 6, 7, 8, 9, 10, 11, 12, 22, 23]
  | .svc => #v[0, 1, 2, 3, 4, 5, 6, 7, 8, 9, 10, 11, 12, 24, 25]
  | .abt => #v[0, 1, 2, 3, 4, 5, 6, 7, 8, 9, 10, 11, 12, 26, 27]
  | .und => #v[0, 1, 2, 3, 4, 5, 6, 7, 8, 9, 10, 11, 12, 28, 29]

/-- `phys(m, i)` (R40): register 15 is not among the physical general registers. -/
def phys (b : Bank) (i : Reg) : Option (Fin 30) :=
  if h : i.val < 15 then some (physTable b)[i.val] else none

/-- A status register as a word (R50): bits 27:8 and T are 0. -/
def psrWord (p : Psr) : Word :=
  BitVec.ofNat 32 (p.n.toNat * 2 ^ 31 + p.z.toNat * 2 ^ 30 + p.c.toNat * 2 ^ 29 + p.v.toNat * 2 ^ 28 +
    p.i.toNat * 2 ^ 7 + p.f.toNat * 2 ^ 6 + (modeCode p.mode).toNat)

/-- The flags field of a word written into a status register (R493, R523). -/
def withFlags (p : Psr) (v : Word) : Psr :=
  { p with n := v.getLsbD 31, z := v.getLsbD 30, c := v.getLsbD 29, v := v.getLsbD 28 }

/-- The status register of a word with a valid mode (R56): the reserved bits are dropped. -/
def psrOfWord (v : Word) (m : Mode) : Psr :=
  { n := v.getLsbD 31, z := v.getLsbD 30, c := v.getLsbD 29, v := v.getLsbD 28,
    i := v.getLsbD 7, f := v.getLsbD 6, mode := m }

/-- A mode field that may be written to the CPSR: T clear and a valid mode (R31, R50). -/
def checkMode (v : Word) : Host.Outcome Mode Fault Refusal :=
  if v.getLsbD 5 then .fault .thumbState
  else match modeOfCode (v.extractLsb' 0 5) with
    | none => .fault .invalidMode
    | some m => .next m

end Sys2Proof.Machine
end

