-- ==== Sys2Proof/Machine/Ops.lean ====
section
/-! DEFINITION. The operations the meanings share: registers, the bus, the instruction pipe, taking an exception and
returning from one, the interrupt latch, reset (spec 10_state.md, 20_memory.md, 40_sequencer.md R226 to R236,
60_exceptions.md R550, 70_reset_and_hazards.md R600). -/

namespace Sys2Proof.Machine

/-- An outcome carried on: the second part runs on what the first gives, a stop stays a stop. -/
def andThen {α β : Type} (r : Host.Outcome α Fault Refusal) (k : α → Host.Outcome β Fault Refusal) :
    Host.Outcome β Fault Refusal :=
  match r with
  | .next a => k a
  | .fault e => .fault e
  | .refused e => .refused e

/-! Registers -/

/-- A general register of a bank (R40); register 15 reads as `cur + 8` (R60). -/
def readBank (s : State) (b : Bank) (i : Reg) : Word :=
  match phys b i with
  | some p => s.regs[p]
  | none => s.pc + 8

/-- `x[i]` (R41, R60). -/
def readReg (s : State) (i : Reg) : Word := readBank s (modeBank s.cpsr.mode) i

/-- A general register of a bank written (R40); register 15 is written by control transfers alone (R63). -/
def writeBank (b : Bank) (i : Reg) (v : Word) (s : State) : State :=
  match phys b i with
  | some p => { s with regs := s.regs.set p v }
  | none => s

/-- `x[i] <- v` (R41). -/
def writeReg (i : Reg) (v : Word) (s : State) : State := writeBank (modeBank s.cpsr.mode) i v s

/-- What a store of a register writes: R15 is stored as `cur + PC_STORE_OFFSET` (45_load_store.md R420). -/
def storeValue (s : State) (b : Bank) (i : Reg) : Word :=
  match phys b i with
  | some p => s.regs[p]
  | none => s.pc + (match s.cfg.pcStoreOffset with | .eight => 8 | .twelve => 12)

/-- The SPSR of the current mode, none in User and System mode (R55). -/
def readSpsr (s : State) : Option Word := (spsrIndex (modeBank s.cpsr.mode)).map (s.spsr[·])

/-- The SPSR of a bank written; a bank without one is left alone. -/
def writeSpsr (b : Bank) (v : Word) (s : State) : State :=
  match spsrIndex b with
  | some k => { s with spsr := s.spsr.set k v }
  | none => s

/-- `SetMode` over the physical registers (R44, R45): only the mode changes, the registers of every bank stay. -/
def setMode (m : Mode) (s : State) : State := { s with cpsr := { s.cpsr with mode := m } }

/-! The bus -/

/-- The fault of an access at an address the machine does not serve (20_memory.md R101, R102). -/
def accessFault (cfg : Config) (a : Word) : Option Fault :=
  if a.msb then
    (if cfg.periphMap.any (fun w => w.base ≤ a.toNat && a.toNat < w.base + w.size) then none
     else some .outsidePeripherals)
  else if a.toNat < cfg.memLimit then none
  else some .outsideMemory

/-- The address an access is checked at: a word access ignores bits 1:0 (R110, R111). -/
def busAddress (w : Width) (a : Word) : Word :=
  match w with
  | .word => alignWord a
  | .half => a
  | .byte => a

/-- The fault of an access of a width: an odd half-word (R112), or an address the machine does not serve. -/
def busFault (cfg : Config) (w : Width) (a : Word) : Option Fault :=
  if w = .half ∧ a.getLsbD 0 then some .oddHalfword
  else accessFault cfg (busAddress w a)

/-- The aligned word at a memory address through the cache: a resident word, or the line is filled from memory
(R142 to R145). A resident word that differs from memory reads as either (R158; log entry 15). -/
def cachedWord (a : Nat) (s : State) : Word × State :=
  match cacheRead s.cfg s.cache a with
  | .hit w =>
    let m := wordAt s.mem a
    if w = m then (w, s)
    else (if Config.freeBit s.draws then m else w, { s with draws := s.draws + 1 })
  | .miss _ =>
    let r := cacheWriteLine s.cfg s.cache a (wordsAt s.mem (lineBase s.cfg a) s.cfg.lineWords) s.draws
    (wordAt s.mem a, { s with cache := r.1, draws := r.2 })

/-- The aligned word a data read brings: from memory through the cache, or from a peripheral, whose answer is free
(R118, R152, R154; log entry 7). -/
def busWord (a : Word) (s : State) : Word × State :=
  if a.msb then (Config.freeWord s.draws, { s with draws := s.draws + 1 })
  else cachedWord a.toNat s

/-- `MemRead` (00_scope.md R12): the value a data read of a width delivers (R110, R116). -/
def busRead (w : Width) (a : Word) (s : State) : Host.Outcome (Word × State) Fault Refusal :=
  match busFault s.cfg w a with
  | some e => .fault e
  | none =>
    let r := busWord (alignWord a) s
    .next (extractRead w a r.1, r.2)

/-- The fault of a store: an access fault, or a byte of the prefetch window of the instruction at `cur`
(70_reset_and_hazards.md R620). -/
def storeFault (cfg : Config) (cur : Word) (w : Width) (a : Word) : Option Fault :=
  match busFault cfg w a with
  | some e => some e
  | none => if storeInWindow cur w a then some .prefetchWindow else none

/-- The event of a store routed to peripheral space (R118, R153): a word's address has bits 1:0 cleared (R111), the data
is replicated over the lanes (R115). -/
def periphEvent (w : Width) (a v : Word) : PeriphWrite :=
  { addr := busAddress w a, data := replicate w v, width := w }

/-- The effect of a store's bus write: memory and a resident word, or one more event at a peripheral (R118, R148, R151,
R153; log entry 7). -/
def storeEffect (w : Width) (a : Word) (v : Word) (s : State) : State :=
  let data := replicate w v
  if a.msb then { s with periphWrites := s.periphWrites ++ [periphEvent w a v] }
  else { s with mem := storeBytes s.mem w a data, cache := cachePatch s.cfg s.cache w a data }

/-- `MemWrite` (00_scope.md R12) by the instruction at `s.pc`. -/
def busWrite (w : Width) (a : Word) (v : Word) (s : State) : Result :=
  match storeFault s.cfg s.pc w a with
  | some e => .fault e
  | none => .next (storeEffect w a v s)

/-! The instruction pipe -/

/-- `fetch(a)` (40_sequencer.md R227): poisoned in peripheral space and outside memory. The word of a poisoned fetch is 0
(DESIGN CHOICE, log entry 28: the rule says `poison` and no value; it never executes). -/
def fetch (a : Word) (s : State) : Fetched × State :=
  if a.msb || s.cfg.memLimit ≤ a.toNat then ({ word := 0, ok := false }, s)
  else
    let r := cachedWord (alignWord a).toNat s
    ({ word := r.1, ok := true }, r.2)

/-- The `IPIPE` action (R226) but for `nextAddr`, which is `pc` and is written when the instruction completes. -/
def prefetch (s : State) : State :=
  let r := fetch s.pipe.fetchAddr s
  { r.2 with pipe := { valid := true, next := s.pipe.ip, ipAddr := s.pipe.fetchAddr, ip := r.1,
                       fetchAddr := s.pipe.fetchAddr + 4 } }

/-- The first refill stage (R236). -/
def refill1 (s : State) : State :=
  let r := fetch s.pipe.fetchAddr s
  { r.2 with pipe := { s.pipe with ipAddr := s.pipe.fetchAddr, ip := r.1, fetchAddr := s.pipe.fetchAddr + 4 } }

/-- The pipe emptied and the next address set: a stage with `PC` in its update mask (R236). -/
def setPc (t : Word) (s : State) : State :=
  { s with pc := t, pipe := { s.pipe with valid := false, fetchAddr := t } }

/-- `pc <- t`: a control transfer with its two refill stages (00_scope.md R12, R236). -/
def jump (t : Word) (s : State) : State := prefetch (refill1 (setPc t s))

/-- `pc <- cur + 4` (R62). -/
def advance (s : State) : State := { s with pc := s.pc + 4 }

/-! Control words (10_state.md R77) -/

/-- The control words of the current queue still to execute, the active one first, by name. -/
def unexecuted (s : State) : List Nat := s.seq.curQ.drop s.seq.idx

/-- The current queue given up: what it still holds goes back to the pool (40_sequencer.md R224, R228, R232). -/
def releaseCurrent (s : State) : State :=
  { s with pool := s.pool.release (unexecuted s), seq := { s.seq with curQ := [], idx := 0 } }

/-- The next queue given up (R236). -/
def releaseNext (s : State) : State :=
  { s with pool := s.pool.release s.seq.nextQ, seq := { s.seq with nextQ := [] } }

/-- Both queues given up, as the instruction level has them: every control word is free. -/
def releaseQueues (s : State) : State := releaseNext (releaseCurrent s)

/-- A synthesized recipe in place of the current queue, from its first stage (R228, R229, R232); too few free control
words stop the machine (R224). -/
def setQueue (ws : List ControlWord) (s : State) : Result :=
  let s1 := releaseCurrent s
  match s1.pool.borrow ws with
  | none => .fault .poolExhausted
  | some r => .next { s1 with pool := r.2, seq := { s1.seq with curQ := r.1 } }

/-- A decoded recipe into the next queue (R226); too few free control words stop the machine (R224). -/
def setNext (ws : List ControlWord) (s : State) : Result :=
  let s1 := releaseNext s
  match s1.pool.borrow ws with
  | none => .fault .poolExhausted
  | some r => .next { s1 with pool := r.2, seq := { s1.seq with nextQ := r.1 } }

/-! Exceptions -/

/-- `vector(e)` (60_exceptions.md R551). -/
def vector : Exc → Word
  | .reset => 0x00
  | .undefined => 0x04
  | .swi => 0x08
  | .prefetchAbort => 0x0C
  | .dataAbort => 0x10
  | .irq => 0x18
  | .fiq => 0x1C

/-- `mode(e)` (R540). -/
def excMode : Exc → Mode
  | .reset => .svc
  | .undefined => .und
  | .swi => .svc
  | .prefetchAbort => .abt
  | .dataAbort => .abt
  | .irq => .irq
  | .fiq => .fiq

/-- The CPSR after an entry (R550): flags kept, the mode entered, I set, F set by FIQ and Reset. -/
def entryPsr (e : Exc) (p : Psr) : Psr :=
  { p with mode := excMode e, i := true,
           f := match e with
             | .reset => true
             | .fiq => true
             | .undefined => p.f
             | .swi => p.f
             | .prefetchAbort => p.f
             | .dataAbort => p.f
             | .irq => p.f }

/-- `Enter(e, lr)` but for the control transfer (R550): the old CPSR saved in the SPSR of the mode entered, R14 of that
mode, the new CPSR. -/
def saveState (e : Exc) (lr : Word) (s : State) : State :=
  let b := modeBank (excMode e)
  { writeBank b 14 lr (writeSpsr b (psrWord s.cpsr) s) with cpsr := entryPsr e s.cpsr }

/-- `Enter(e, lr)` (R550). -/
def enterException (e : Exc) (lr : Word) (s : State) : State := jump (vector e) (saveState e lr s)

/-- `raise Undefined(cur)` and `raise SWI(cur)` (R552, R553): the return address is `cur + 4`. -/
def raiseException (e : Exc) (s : State) : Result := .next (enterException e (s.pc + 4) s)

/-- `RestoreCPSR()` (10_state.md R56). -/
def restoreCpsr (s : State) : Result :=
  match readSpsr s with
  | none => .fault .noSpsr
  | some v => andThen (checkMode v) fun m => .next { s with cpsr := psrOfWord v m }

/-! Interrupts and reset -/

/-- `LatchInterrupts` (R560). -/
def latchInterrupts (l : Lines) (s : State) : State :=
  { s with irq := { prevNIRQ := l.nIRQ, prevNFIQ := l.nFIQ,
                    irqPending := s.irq.irqPending || (s.irq.prevNIRQ && !l.nIRQ && !s.cpsr.i),
                    fiqPending := s.irq.fiqPending || (s.irq.prevNFIQ && !l.nFIQ && !s.cpsr.f) } }

/-- The interrupt taken when a queue is exhausted (40_sequencer.md R229, R563). -/
def interruptToTake (s : State) : Option Exc :=
  if s.irq.fiqPending && !s.cpsr.f then some .fiq
  else if s.irq.irqPending && !s.cpsr.i then some .irq
  else none

/-- The pending flag of a taken interrupt cleared (R229). -/
def clearPending (e : Exc) (s : State) : State :=
  match e with
  | .fiq => { s with irq := { s.irq with fiqPending := false } }
  | .irq => { s with irq := { s.irq with irqPending := false } }
  | .reset => s
  | .undefined => s
  | .swi => s
  | .prefetchAbort => s
  | .dataAbort => s

/-- The cache flush an SWI callback asked for, at the next wrapper cycle (20_memory.md R156): `cycle` and `beginStep` make it
first, before anything that cycle or step asks of the bus (DESIGN CHOICE, log entry 33). -/
def flushIfRequested (s : State) : State :=
  if s.flushRequest then { s with cache := cacheReset, flushRequest := false } else s

/-- `Reset()` (70_reset_and_hazards.md R600): what it names is set; the flags are free bits (R80); the registers and
SPSRs, which it leaves unspecified, take the values of `State.reset` (log entry 1); the parameters, memory, the levels,
the plug-ins' states, the answers to come and the events so far stay, and the coprocessor port, which neither R600 nor
R80 lists, is cleared: no request is driven, nothing has been sent (DESIGN CHOICE, log entry 19). Every control word is
released but the seed. -/
def doReset (s : State) : State :=
  { State.reset with
    cfg := s.cfg
    mem := s.mem
    cpsr := { n := Config.freeBit s.draws, z := Config.freeBit (s.draws + 1), c := Config.freeBit (s.draws + 2),
              v := Config.freeBit (s.draws + 3), i := true, f := true, mode := .svc }
    lines := s.lines
    inputs := s.inputs
    cpState := s.cpState
    cpAnswers := s.cpAnswers
    swiAnswers := s.swiAnswers
    periphWrites := s.periphWrites
    pool := seededPool s.cfg.maxInstLen
    draws := s.draws + 4 }

/-- The next sample of the platform's levels (60_exceptions.md R576; log entry 9): whether a reset line is asserted, and
the state with the levels. With no sample left the levels stay and no reset is asserted. -/
def sampleInput (s : State) : Bool × State :=
  match s.inputs with
  | [] => (false, s)
  | x :: rest => (x.reset, { s with lines := { nIRQ := x.nIRQ, nFIQ := x.nFIQ }, inputs := rest })

/-! Conditional execution -/

/-- An instruction whose condition failed only advances the pipe (40_sequencer.md R230). -/
def skip (s : State) : State := advance (prefetch s)

/-- An instruction with its refusal, which is a property of the word and comes first (00_scope.md R17,
41_alu_shifter.md R262), its condition (R230) and its effect. -/
def conditional (c : Cond) (why : Option Unpredictable) (s : State) (effect : State → Result) : Result :=
  match why with
  | some r => .refused (.unpredictable r)
  | none => if condPassed c s.cpsr then effect s else .next (skip s)

/-- The end of an instruction that does not write R15 (R62). -/
def complete (s : State) : Result := .next (advance s)

end Sys2Proof.Machine
end

