-- ==== Sys2Proof/Machine/Operands.lean ====
section
/-! DEFINITION. The barrel shifter and every operand form (spec 41_alu_shifter.md R265 to R273, 45_load_store.md R410,
R430, 46_block_transfer.md R463, 48_coprocessor.md R525). -/

namespace Sys2Proof.Machine

/-- LSL by `n` (R266): (result, carry). -/
def shiftLsl (v : Word) (n : Nat) (cin : Bool) : Word × Bool :=
  if n = 0 then (v, cin)
  else if n ≤ 31 then (v <<< n, v.getLsbD (32 - n))
  else if n = 32 then (0, v.getLsbD 0)
  else (0, false)

/-- LSR by `n` (R267). -/
def shiftLsr (v : Word) (n : Nat) (cin : Bool) : Word × Bool :=
  if n = 0 then (v, cin)
  else if n ≤ 31 then (v >>> n, v.getLsbD (n - 1))
  else if n = 32 then (0, v.getLsbD 31)
  else (0, false)

/-- ASR by `n` (R268). -/
def shiftAsr (v : Word) (n : Nat) (cin : Bool) : Word × Bool :=
  if n = 0 then (v, cin)
  else if n ≤ 31 then (v.sshiftRight n, v.getLsbD (n - 1))
  else (if v.getLsbD 31 then 0xFFFFFFFF else 0, v.getLsbD 31)

/-- ROR by `n` (R269). -/
def shiftRor (v : Word) (n : Nat) (cin : Bool) : Word × Bool :=
  if n = 0 then (v, cin)
  else if n % 32 = 0 then (v, v.getLsbD 31)
  else (v.rotateRight (n % 32), v.getLsbD (n % 32 - 1))

/-- RRX (R270). -/
def shiftRrx (v : Word) (cin : Bool) : Word × Bool :=
  ((v >>> 1) ||| (if cin then 0x80000000#32 else 0), v.getLsbD 0)

/-- `Shift` (R265). -/
def shift (v : Word) (op : ShiftOp) (n : Nat) (cin : Bool) : Word × Bool :=
  match op with
  | .lsl => shiftLsl v n cin
  | .lsr => shiftLsr v n cin
  | .asr => shiftAsr v n cin
  | .ror => shiftRor v n cin
  | .rrx => shiftRrx v cin

/-- The shift of an immediate-shift form (R271): LSR, ASR by 0 mean by 32, ROR by 0 is RRX. -/
def immShift (ty : ShiftType) (amount : BitVec 5) : ShiftOp × Nat :=
  match ty with
  | .lsl => (.lsl, amount.toNat)
  | .lsr => (.lsr, if amount = 0 then 32 else amount.toNat)
  | .asr => (.asr, if amount = 0 then 32 else amount.toNat)
  | .ror => if amount = 0 then (.rrx, 1) else (.ror, amount.toNat)

/-- The shift of a register-shift form (R271). -/
def regShiftOp : ShiftType → ShiftOp
  | .lsl => .lsl
  | .lsr => .lsr
  | .asr => .asr
  | .ror => .ror

/-- The immediate operand (R272, 30_encoding.md R188). -/
def rotatedImm (rot : BitVec 4) (imm8 : Byte) : Word := (imm8.setWidth 32).rotateRight (2 * rot.toNat)

/-- The low byte of a register, the amount of a register-specified shift (R271). -/
def shiftAmount (v : Word) : Nat := (v.extractLsb' 0 8).toNat

/-- `Operand2(w)` (R273): the value and the shifter carry-out. -/
def operand2 (op : Operand2) (s : State) : Word × Bool :=
  match op with
  | .imm rot imm8 =>
    let v := rotatedImm rot imm8
    (v, if rot = 0 then s.cpsr.c else v.getLsbD 31)
  | .immShift rm ty amount =>
    let k := immShift ty amount
    shift (readReg s rm) k.1 k.2 s.cpsr.c
  | .regShift rm ty rs => shift (readReg s rm) (regShiftOp ty) (shiftAmount (readReg s rs)) s.cpsr.c

/-- The offset of a single-word or byte transfer (R410); the shifter's carry-out is not used. -/
def offsetValue (off : Offset) (s : State) : Word :=
  match off with
  | .imm imm12 => imm12.setWidth 32
  | .reg rm ty amount =>
    let k := immShift ty amount
    (shift (readReg s rm) k.1 k.2 s.cpsr.c).1

/-- The offset of a half-word transfer (R430). -/
def halfOffsetValue (off : HalfOffset) (s : State) : Word :=
  match off with
  | .imm imm8 => imm8.setWidth 32
  | .reg _ rm => readReg s rm

/-- The address of a transfer and what its base register becomes, if it is written (R410). -/
structure Address where
  addr : Word
  wb   : Option Word
  deriving DecidableEq, Repr

/-- `base + off` or `base - off` (R410). -/
def indexed (u : Bool) (base off : Word) : Word := if u then base + off else base - off

/-- The address rule shared by R410, R430 and R525: `p` says that the access uses the indexed address, `w` that the base
is written. -/
def transferAddress (p u w : Bool) (base off : Word) : Address :=
  { addr := if p then indexed u base off else base
    wb := if w then some (indexed u base off) else none }

/-- The address of a single-word or byte transfer (R410). -/
def singleAddress (ix : Indexing) (u : Bool) (rn : Reg) (off : Offset) (s : State) : Address :=
  match ix with
  | .offset => transferAddress true u false (readReg s rn) (offsetValue off s)
  | .pre => transferAddress true u true (readReg s rn) (offsetValue off s)
  | .post => transferAddress false u true (readReg s rn) (offsetValue off s)

/-- The address of a half-word transfer (R430): the base is written when `P = 0` or `W = 1`. -/
def halfAddress (p u w : Bool) (rn : Reg) (off : HalfOffset) (s : State) : Address :=
  transferAddress p u (!p || w) (readReg s rn) (halfOffsetValue off s)

/-- The address of an LDC or STC (R525): the base is written when `W = 1`. -/
def cpAddress (p u w : Bool) (rn : Reg) (imm8 : Byte) (s : State) : Address :=
  transferAddress p u w (readReg s rn) (imm8.setWidth 32 * 4)

/-- The base register written, where the addressing mode says so (R410, R464). -/
def writeBack (rn : Reg) (wb : Option Word) (s : State) : State :=
  match wb with
  | some v => writeReg rn v s
  | none => s

/-- The addressing variant of a block transfer (46_block_transfer.md R463). -/
inductive BlockMode where
  | ia | ib | da | db
  deriving DecidableEq, Repr

/-- The listed registers, ascending (R463). -/
def listed (list : BitVec 16) : List Reg := (List.finRange 16).filter fun i => list.getLsbD i.val

/-- `4n` (R463). -/
def blockSize (list : BitVec 16) : Word := BitVec.ofNat 32 (4 * (listed list).length)

/-- `start` (R463). -/
def blockStart (m : BlockMode) (base : Word) (list : BitVec 16) : Word :=
  match m with
  | .ia => base
  | .ib => base + 4
  | .da => base - blockSize list + 4
  | .db => base - blockSize list

/-- The base after write-back (R463). -/
def blockFinal (m : BlockMode) (base : Word) (list : BitVec 16) : Word :=
  match m with
  | .ia => base + blockSize list
  | .ib => base + blockSize list
  | .da => base - blockSize list
  | .db => base - blockSize list

/-- The address rule of a block transfer with its write-back (R463, R464). -/
def blockAddress (m : BlockMode) (w : Bool) (rn : Reg) (list : BitVec 16) (s : State) : Address :=
  { addr := blockStart m (readReg s rn) list
    wb := if w then some (blockFinal m (readReg s rn) list) else none }

/-- A loaded value as the core extends it (R436, R437). -/
def extendLoad (x : Extend) (v : Word) : Word :=
  match x with
  | .zero => v
  | .signByte => (v.extractLsb' 0 8).signExtend 32
  | .signHalf => (v.extractLsb' 0 16).signExtend 32

end Sys2Proof.Machine
end

