-- ==== Sys2Proof/Machine/Coprocessor.lean ====
section
/-! DEFINITION. The coprocessor handshake and CDP, MCR, MRC, LDC, STC (spec 48_coprocessor.md R510 to R528), and the
undefined instruction (60_exceptions.md R552). -/

namespace Sys2Proof.Machine

/-- The slot holds a plug-in given as a function (R514, R516). -/
def plugInGiven (cfg : Config) (cp : Fin 16) : Bool := cfg.cpSlots.contains cp && cfg.cpPlugIns.contains cp

/-- The core's half of the bus record (R513). -/
def busRecord (p : CpPort) : CpBus :=
  { request := p.request, instr := p.instr, dataOut := p.dataOut, transfer := p.transfer }

/-- What the core makes of a slot's lines (R512): `ack` before `abort`, and with neither a wait. -/
def linesReply (x : CpLines) : CpReply := if x.ack then .ack else if x.abort then .abort else .wait

/-- The port's request is driven and not accepted: before `GO` (R512). -/
def beforeGo (p : CpPort) : Bool := p.request && p.taken != .ack

/-- A plug-in's state while its request is not accepted (R512: "no register, flag, memory or coprocessor state changes
before GO"): what it holds stays, its handshake goes on (log entry 6). -/
def holdRegs (hold : Bool) (old new : PlugInState) : PlugInState :=
  if hold then { new with regs := old.regs } else new

/-- A given plug-in cycled once with the bus record (R515, R516). The one the instruction addresses drives the lines the
core will see, and holds its state until the request is accepted. -/
def cyclePlugIn (cp : Fin 16) (addressed : Bool) (s : State) : State :=
  let r := Config.plugIn cp s.cpState[cp] (busRecord s.cp)
  { s with cpState := s.cpState.set cp (holdRegs (addressed && beforeGo s.cp) s.cpState[cp] r.1),
           cp := if addressed then { s.cp with lines := r.2 } else s.cp }

/-- What ends with the cycle: the strobe of a moved word, and a request whose reply was taken (R512: the request is driven
in the cycles of the handshake, the one that goes on or aborts among them). `instr` keeps the word
driven with the last request and `dataOut` the last word driven to a coprocessor, and every plug-in sees them in its turn:
R513 does not say what the two carry in a cycle in which the core drives none (DESIGN CHOICE, log entry 32). -/
def endCpCycle (s : State) : State :=
  { s with cp := { s.cp with transfer := false, request := s.cp.request && s.cp.taken == .wait, taken := .wait } }

/-- The coprocessors' stage of a system cycle (R515, 70_reset_and_hazards.md R610): every given plug-in is cycled once,
with what the core drove in this cycle. -/
def coprocessorStage (s : State) : State :=
  endCpCycle ((List.finRange 16).foldl
    (fun u cp => if plugInGiven u.cfg cp then cyclePlugIn cp (cpAt u.cp.instr == cp) u else u) s)

/-- The addressed coprocessor's turn at the instruction level, which has no cycles: with each thing the core drives
(log entry 6). -/
def answerCycle (cp : Fin 16) (s : State) : State :=
  endCpCycle (if plugInGiven s.cfg cp then cyclePlugIn cp true s else s)

/-- The lines the core sees in a cycle in which it looks (R515, R516): those a given plug-in drove in the cycle before;
of a slot with none given the next in its queue, free ones when none is left. -/
def drivenLines (cp : Fin 16) (s : State) : CpLines × State :=
  if plugInGiven s.cfg cp then (s.cp.lines, s)
  else
    match s.cpAnswers[cp] with
    | x :: rest => (x, { s with cpAnswers := s.cpAnswers.set cp rest })
    | [] => (Config.freeCpLines s.draws, { s with draws := s.draws + 1 })

/-- A look at the coprocessor's lines. Word number 16 is the last whatever the line says (R525: at most
`LDC_MAX_WORDS = 16`; log entry 17). -/
def look (cp : Fin 16) (s : State) : State :=
  let r := drivenLines cp s
  { r.2 with cp := { r.2.cp with lines := { r.1 with last := r.1.last || decide (15 ≤ s.cp.moved) } } }

/-- One word moves: to the coprocessor on data-out where the core drives one, else from it. -/
def driveTransfer (v : Option Word) (s : State) : State :=
  { s with cp := { s.cp with transfer := true, dataOut := v.getD s.cp.dataOut, sent := s.cp.sent ++ v.toList,
                             moved := s.cp.moved + 1 } }

/-- One word moves and the coprocessor has its turn. -/
def moveWord (cp : Fin 16) (v : Option Word) (s : State) : State := answerCycle cp (driveTransfer v s)

/-- The request is driven and held: a wait, with no other effect (R512, R240; log entry 13). -/
def driveRequest (word : Word) (s : State) : State :=
  { s with cp := { s.cp with request := true, instr := word, transfer := false, taken := .wait, sent := [],
                             moved := 0 } }

/-- The core goes on with a reply in this cycle. -/
def takeReply (r : CpReply) (s : State) : State := { s with cp := { s.cp with taken := r } }

/-- The reply of a slot in a cycle in which the core looks (R511, R512): an empty slot aborts at once. -/
def reply (cp : Fin 16) (s : State) : CpReply × State :=
  if s.cfg.cpSlots.contains cp then (linesReply (look cp s).cp.lines, look cp s) else (.abort, s)

/-- One request and its reply (R512, R515): the coprocessor sees the request in the cycle it is driven, the core sees the
answer in the next. -/
def ask (cp : Fin 16) (word : Word) (s : State) : CpReply × State := reply cp (answerCycle cp (driveRequest word s))

/-- The end of the handshake, with the coprocessor's turn in that cycle, in which the request is still driven: after `GO`
(`ack`) it may act on the instruction (R512). -/
def endHandshake (r : CpReply) (cp : Fin 16) (word : Word) (s : State) : State :=
  answerCycle cp (takeReply r (ask cp word s).2)

/-- The state of an accepted instruction. -/
def accepted (cp : Fin 16) (word : Word) (s : State) : State := endHandshake .ack cp word s

/-- `CoprocessorHandshake` (R512) and what follows: a wait leaves the instruction where it stands, an abort is the
undefined trap (R511), an acceptance goes on. -/
def handshake (cp : Fin 16) (word : Word) (s : State) (go : State → Result) : Result :=
  match (ask cp word s).1 with
  | .wait => .next (ask cp word s).2
  | .abort => raiseException .undefined (endHandshake .abort cp word s)
  | .ack => go (accepted cp word s)

/-- `LDC_MAX_WORDS` (00_scope.md R9, R525). -/
def ldcMaxWords : Nat := 16

/-- The transfer stages of an LDC (R526): memory words at `a`, `a + 4`, … driven to the coprocessor until it raises
`last`. -/
def loadTransfer (cp : Fin 16) : Nat → Word → State → Result
  | 0, _, s => .next s
  | n + 1, a, s =>
    andThen (busRead .word (alignWord a) s) fun r =>
      let u := look cp r.2
      let t := moveWord cp (some r.1) u
      if u.cp.lines.last then .next t else loadTransfer cp n (a + 4) t

/-- The transfer stages of an STC (R527): the coprocessor's words written at `a`, `a + 4`, … until it raises `last`. -/
def storeTransfer (cp : Fin 16) : Nat → Word → State → Result
  | 0, _, s => .next s
  | n + 1, a, s =>
    let u := look cp s
    andThen (busWrite .word a u.cp.lines.dataIn u) fun t =>
      let t := moveWord cp none t
      if u.cp.lines.last then .next t else storeTransfer cp n (a + 4) t

/-- R510: no core state changes. -/
def execCdp (c : Cond) (op1 crn crd : BitVec 4) (cp : Fin 16) (op2 : BitVec 3) (crm : BitVec 4) (s : State) : Result :=
  conditional c none s fun s =>
    handshake cp (encode (.cdp c op1 crn crd cp op2 crm)) s fun s => complete (prefetch s)

/-- R520. -/
def execMcr (c : Cond) (op1 : BitVec 3) (crn : BitVec 4) (rd : Reg) (cp : Fin 16) (op2 : BitVec 3) (crm : BitVec 4)
    (s : State) : Result :=
  conditional c (restrictMcr rd) s fun s =>
    handshake cp (encode (.mcr c op1 crn rd cp op2 crm)) s fun s =>
      complete (moveWord cp (some (readReg s rd)) (prefetch s))

/-- What MRC writes (R523): the flags when `Rd = 15`, else the register. -/
def mrcWrite (rd : Reg) (v : Word) (s : State) : State :=
  if rd = 15 then { s with cpsr := withFlags s.cpsr v } else writeReg rd v s

/-- R523. -/
def execMrc (c : Cond) (op1 : BitVec 3) (crn : BitVec 4) (rd : Reg) (cp : Fin 16) (op2 : BitVec 3) (crm : BitVec 4)
    (s : State) : Result :=
  conditional c none s fun s =>
    handshake cp (encode (.mrc c op1 crn rd cp op2 crm)) s fun s =>
      let u := look cp (prefetch s)
      complete (mrcWrite rd u.cp.lines.dataIn (moveWord cp none u))

/-- R525, R526. -/
def execLdc (c : Cond) (p u n w : Bool) (rn : Reg) (crd : BitVec 4) (cp : Fin 16) (imm8 : Byte) (s : State) : Result :=
  conditional c (restrictCpTransfer p w rn) s fun s =>
    handshake cp (encode (.ldc c p u n w rn crd cp imm8)) s fun s =>
      let x := cpAddress p u w rn imm8 s
      andThen (loadTransfer cp ldcMaxWords x.addr (writeBack rn x.wb (prefetch s))) complete

/-- R525, R527. -/
def execStc (c : Cond) (p u n w : Bool) (rn : Reg) (crd : BitVec 4) (cp : Fin 16) (imm8 : Byte) (s : State) : Result :=
  conditional c (restrictCpTransfer p w rn) s fun s =>
    handshake cp (encode (.stc c p u n w rn crd cp imm8)) s fun s =>
      let x := cpAddress p u w rn imm8 s
      andThen (storeTransfer cp ldcMaxWords x.addr (writeBack rn x.wb (prefetch s))) complete

/-- R552: the condition of an undefined word is not tested. -/
def execUndefined (_w : Word) (s : State) : Result := raiseException .undefined s

end Sys2Proof.Machine
end

