-- ==== Sys2Proof/Machine/Boundary.lean ====
section
/-! DEFINITION. What happens at an instruction boundary: the flush an SWI asked for, the interrupt latch, the refill of
an empty pipe, the interrupt that is taken, the instruction that becomes current (spec 40_sequencer.md R229, R231,
R244; 60_exceptions.md R556, R563), and a program word placed from outside (70_reset_and_hazards.md R603). -/

namespace Sys2Proof.Machine

/-- The pipe refilled from `pc` when it is empty, as after reset (R244, R602). -/
def refillIfEmpty (s : State) : State := if s.pipe.valid then s else jump s.pc s

/-- The start of a step: the flush (before any fetch of the step, DESIGN CHOICE, log entry 33), the latch, the refill; the
instruction level holds no control word. -/
def beginStep (s : State) : State :=
  releaseQueues (refillIfEmpty (latchInterrupts s.lines (flushIfRequested s)))

/-- The interrupt taken at this boundary (R229, R563): none while a coprocessor instruction is in its handshake, whose
queue is not exhausted (R240). -/
def boundaryInterrupt (s : State) : Option Exc := if s.cp.request then none else interruptToTake s

/-- IRQ and FIQ entry (R556): the return address is `nextAddr + 4`. -/
def takeInterrupt (e : Exc) (s : State) : State := enterException e (s.pc + 4) (clearPending e s)

/-- The next instruction becomes the current one (R229). -/
def makeCurrent (s : State) : State := { s with seq := { s.seq with cur := s.pc, curWord := s.pipe.next.word } }

/-- A program word placed from outside where the next step fetches it: in memory, in a resident cache line and, when the
pipe holds the next instruction already, there; nothing stands in its way (no input, no pending interrupt, no
handshake). Log entry 14. -/
def placeWord (w : Word) (s : State) : State :=
  { s with
    mem := storeBytes s.mem .word s.pc w
    cache := cachePatch s.cfg s.cache .word s.pc w
    pipe := if s.pipe.valid then { s.pipe with next := { word := w, ok := true } } else s.pipe
    inputs := []
    lines := { nIRQ := true, nFIQ := true }
    irq := { s.irq with irqPending := false, fiqPending := false }
    cp := { s.cp with request := false } }

end Sys2Proof.Machine
end

