-- ==== Sys2Proof/Machine/BlockTransfer.lean ====
section
/-! DEFINITION. LDM and STM (spec 46_block_transfer.md R460 to R473). -/

namespace Sys2Proof.Machine

/-- Word reads at `a`, `a + 4`, …, one for each register, nothing rotated (R460, R463). -/
def readMany : List Reg → Word → State → Host.Outcome (List (Reg × Word) × State) Fault Refusal
  | [], _, s => .next ([], s)
  | i :: rest, a, s =>
    andThen (busRead .word (alignWord a) s) fun r =>
      andThen (readMany rest (a + 4) r.2) fun q => .next ((i, r.1) :: q.1, q.2)

/-- Word writes at `a`, `a + 4`, …, one for each (register, value) (R461, R463). -/
def writeMany : List (Reg × Word) → Word → State → Result
  | [], _, s => .next s
  | (_, v) :: rest, a, s => andThen (busWrite .word a v s) fun s' => writeMany rest (a + 4) s'

/-- Loaded values into registers 0 to 14 of a bank (R460, R466). -/
def assignMany (b : Bank) : List (Reg × Word) → State → State
  | [], s => s
  | (i, v) :: rest, s => assignMany b rest (writeBank b i v s)

/-- The value loaded for R15, if it is listed: it is the last (R462). -/
def loadedPc : List (Reg × Word) → Option Word
  | [] => none
  | (i, v) :: rest => if i = 15 then some v else loadedPc rest

/-- The bank the registers of a block transfer belong to (R466): the User bank for the S bit without R15 in a load
list. -/
def transferBank (s : State) (userBank : Bool) : Bank := if userBank then .usr else modeBank s.cpsr.mode

/-- The end of an LDM: the control transfer with the CPSR restored when `S = 1` (R462, R465), or the next instruction. -/
def finishLdm (sf : Bool) (target : Option Word) (s : State) : Result :=
  match target with
  | none => complete s
  | some v =>
    if sf then andThen (restoreCpsr s) fun s' => .next (jump (alignWord v) s')
    else .next (jump (alignWord v) s)

/-- LDM (R460, R462): the reads, the write-back, the registers, then R15. -/
def loadMultiple (m : BlockMode) (sf w : Bool) (rn : Reg) (list : BitVec 16) (s : State) : Result :=
  let a := blockAddress m w rn list s
  andThen (readMany (listed list) a.addr (prefetch s)) fun r =>
    let b := transferBank s (sf && !list.getLsbD 15)
    finishLdm sf (loadedPc r.1) (assignMany b r.1 (writeBack rn a.wb r.2))

/-- STM (R461): every value is read before the write-back. -/
def storeMultiple (m : BlockMode) (sf w : Bool) (rn : Reg) (list : BitVec 16) (s : State) : Result :=
  let a := blockAddress m w rn list s
  let values := (listed list).map fun i => (i, storeValue s (transferBank s sf) i)
  andThen (writeMany values a.addr (prefetch s)) fun s' => complete (writeBack rn a.wb s')

/-- R460, R462, IA. -/
def execLdmia (c : Cond) (sf w : Bool) (rn : Reg) (list : BitVec 16) (s : State) : Result :=
  conditional c (restrictLdm sf w rn list) s fun s => loadMultiple .ia sf w rn list s

/-- R460, R462, IB. -/
def execLdmib (c : Cond) (sf w : Bool) (rn : Reg) (list : BitVec 16) (s : State) : Result :=
  conditional c (restrictLdm sf w rn list) s fun s => loadMultiple .ib sf w rn list s

/-- R460, R462, DA. -/
def execLdmda (c : Cond) (sf w : Bool) (rn : Reg) (list : BitVec 16) (s : State) : Result :=
  conditional c (restrictLdm sf w rn list) s fun s => loadMultiple .da sf w rn list s

/-- R460, R462, DB. -/
def execLdmdb (c : Cond) (sf w : Bool) (rn : Reg) (list : BitVec 16) (s : State) : Result :=
  conditional c (restrictLdm sf w rn list) s fun s => loadMultiple .db sf w rn list s

/-- R461, IA. -/
def execStmia (c : Cond) (sf w : Bool) (rn : Reg) (list : BitVec 16) (s : State) : Result :=
  conditional c (restrictStm sf w rn list) s fun s => storeMultiple .ia sf w rn list s

/-- R461, IB. -/
def execStmib (c : Cond) (sf w : Bool) (rn : Reg) (list : BitVec 16) (s : State) : Result :=
  conditional c (restrictStm sf w rn list) s fun s => storeMultiple .ib sf w rn list s

/-- R461, DA. -/
def execStmda (c : Cond) (sf w : Bool) (rn : Reg) (list : BitVec 16) (s : State) : Result :=
  conditional c (restrictStm sf w rn list) s fun s => storeMultiple .da sf w rn list s

/-- R461, DB. -/
def execStmdb (c : Cond) (sf w : Bool) (rn : Reg) (list : BitVec 16) (s : State) : Result :=
  conditional c (restrictStm sf w rn list) s fun s => storeMultiple .db sf w rn list s

end Sys2Proof.Machine
end

