-- ==== Sys2Proof/Machine/Branch.lean ====
section
/-! DEFINITION. B, BL and SWI (spec 42_branch_swi.md R310 to R319). -/

namespace Sys2Proof.Machine

/-- The branch target `cur + 8 + sext(imm24 ++ 00)` (R310, 30_encoding.md R193). -/
def branchTarget (cur : Word) (imm24 : BitVec 24) : Word :=
  cur + 8 + (imm24 ++ 0b00#2).signExtend 32

/-- R310. -/
def execB (c : Cond) (imm24 : BitVec 24) (s : State) : Result :=
  conditional c none s fun s => .next (jump (branchTarget s.pc imm24) s)

/-- R311. -/
def execBl (c : Cond) (imm24 : BitVec 24) (s : State) : Result :=
  conditional c none s fun s => .next (jump (branchTarget s.pc imm24) (writeReg 14 (s.pc + 4) s))

/-- The key of an SWI (R316): bit 23 of the comment is not used. -/
def swiKey (comment : BitVec 24) : Nat := comment.toNat % 2 ^ 23

/-- A callback is registered for a key (R316, R318). -/
def swiRegistered (cfg : Config) (key : Nat) : Bool := key < cfg.swiTableSize && cfg.swiTable.contains key

/-- What the callback of a key does with the four argument registers and memory (R317; log entry 5). -/
def nextCallback (key : Nat) (s : State) : SwiAnswer × State :=
  match s.swiAnswers with
  | a :: rest => (a, { s with swiAnswers := rest })
  | [] =>
    ({ result := Config.swiResult key (readReg s 0) (readReg s 1) (readReg s 2) (readReg s 3) s.mem
       writes := Config.swiWrites key (readReg s 0) (readReg s 1) (readReg s 2) (readReg s 3) s.mem }, s)

/-- The bytes of external memory among those a callback writes (R317). -/
def callbackWrites (cfg : Config) (a : SwiAnswer) : List Host.Cell := a.writes.filter (·.1 < cfg.memLimit)

/-- `SWI_HOOK` of the instruction at `cur` (R318): memory as the callback leaves it, its result in R0, the flush asked
for; a write into the prefetch window faults (70_reset_and_hazards.md R620; DEDUCED for one that changes no byte, log entry
10). -/
def swiHook (cur : Word) (key : Nat) (s : State) : Result :=
  let r := nextCallback key s
  if (callbackWrites s.cfg r.1).any (fun c => inPrefetchWindow cur c.1) then .fault .prefetchWindow
  else .next (writeReg 0 r.1.result
    { r.2 with mem := applyWrites s.cfg.memLimit s.mem (callbackWrites s.cfg r.1), flushRequest := true })

/-- R318, R319. -/
def execSwi (c : Cond) (comment : BitVec 24) (s : State) : Result :=
  conditional c none s fun s =>
    if swiRegistered s.cfg (swiKey comment) then andThen (swiHook s.pc (swiKey comment) (prefetch s)) complete
    else raiseException .swi s

end Sys2Proof.Machine
end

