-- ==== Sys2Proof/Machine/DataProcessing.lean ====
section
/-! DEFINITION. The sixteen data-processing instructions (spec 43_data_processing.md R330 to R356). -/

namespace Sys2Proof.Machine

/-- `WritePC(res, S)` (R334): alignment first, then the CPSR from the SPSR when `S = 1`, then the control transfer. -/
def writePc (res : Word) (sf : Bool) (s : State) : Result :=
  if res.extractLsb' 0 2 ≠ 0 then .fault .unalignedPc
  else if sf then andThen (restoreCpsr s) fun s' => .next (jump res s')
  else .next (jump res s)

/-- The flags written from an operation, when instructed (R331). -/
def setAluFlags (op : AluOp) (sf : Bool) (a : Word) (b : Word × Bool) (s : State) : State :=
  if sf then { s with cpsr := aluFlags op a b.1 b.2 s.cpsr } else s

/-- Operands and completion of an operation that writes a register (R330, R331). `a` is `x[Rn]`, not read by MOV and
MVN. -/
def dataProcessing (op : AluOp) (sf : Bool) (a : Word) (rd : Reg) (op2 : Operand2) (s : State) : Result :=
  let b := operand2 op2 s
  let res := aluResult op a b.1 s.cpsr.c
  if rd = 15 then writePc res sf s
  else complete (prefetch (setAluFlags op sf a b (writeReg rd res s)))

/-- Operands and completion of TST, TEQ, CMP and CMN (R330, R331): the flags alone. -/
def compareOp (op : AluOp) (rn : Reg) (op2 : Operand2) (s : State) : Result :=
  complete (prefetch (setAluFlags op true (readReg s rn) (operand2 op2 s) s))

/-- R340. -/
def execAnd (c : Cond) (sf : Bool) (rn rd : Reg) (op : Operand2) (s : State) : Result :=
  conditional c (restrictDp rn rd op) s fun s => dataProcessing .and sf (readReg s rn) rd op s

/-- R341. -/
def execEor (c : Cond) (sf : Bool) (rn rd : Reg) (op : Operand2) (s : State) : Result :=
  conditional c (restrictDp rn rd op) s fun s => dataProcessing .eor sf (readReg s rn) rd op s

/-- R342. -/
def execSub (c : Cond) (sf : Bool) (rn rd : Reg) (op : Operand2) (s : State) : Result :=
  conditional c (restrictDp rn rd op) s fun s => dataProcessing .sub sf (readReg s rn) rd op s

/-- R343. -/
def execRsb (c : Cond) (sf : Bool) (rn rd : Reg) (op : Operand2) (s : State) : Result :=
  conditional c (restrictDp rn rd op) s fun s => dataProcessing .rsb sf (readReg s rn) rd op s

/-- R344. -/
def execAdd (c : Cond) (sf : Bool) (rn rd : Reg) (op : Operand2) (s : State) : Result :=
  conditional c (restrictDp rn rd op) s fun s => dataProcessing .add sf (readReg s rn) rd op s

/-- R345. -/
def execAdc (c : Cond) (sf : Bool) (rn rd : Reg) (op : Operand2) (s : State) : Result :=
  conditional c (restrictDp rn rd op) s fun s => dataProcessing .adc sf (readReg s rn) rd op s

/-- R346. -/
def execSbc (c : Cond) (sf : Bool) (rn rd : Reg) (op : Operand2) (s : State) : Result :=
  conditional c (restrictDp rn rd op) s fun s => dataProcessing .sbc sf (readReg s rn) rd op s

/-- R347. -/
def execRsc (c : Cond) (sf : Bool) (rn rd : Reg) (op : Operand2) (s : State) : Result :=
  conditional c (restrictDp rn rd op) s fun s => dataProcessing .rsc sf (readReg s rn) rd op s

/-- R348. -/
def execTst (c : Cond) (rn : Reg) (sbz : BitVec 4) (op : Operand2) (s : State) : Result :=
  conditional c (restrictDpSbz sbz rn op) s fun s => compareOp .tst rn op s

/-- R349. -/
def execTeq (c : Cond) (rn : Reg) (sbz : BitVec 4) (op : Operand2) (s : State) : Result :=
  conditional c (restrictDpSbz sbz rn op) s fun s => compareOp .teq rn op s

/-- R351. -/
def execCmp (c : Cond) (rn : Reg) (sbz : BitVec 4) (op : Operand2) (s : State) : Result :=
  conditional c (restrictDpSbz sbz rn op) s fun s => compareOp .cmp rn op s

/-- R352. -/
def execCmn (c : Cond) (rn : Reg) (sbz : BitVec 4) (op : Operand2) (s : State) : Result :=
  conditional c (restrictDpSbz sbz rn op) s fun s => compareOp .cmn rn op s

/-- R353. -/
def execOrr (c : Cond) (sf : Bool) (rn rd : Reg) (op : Operand2) (s : State) : Result :=
  conditional c (restrictDp rn rd op) s fun s => dataProcessing .orr sf (readReg s rn) rd op s

/-- R350. -/
def execMov (c : Cond) (sf : Bool) (sbz : BitVec 4) (rd : Reg) (op : Operand2) (s : State) : Result :=
  conditional c (restrictDpSbz sbz rd op) s fun s => dataProcessing .mov sf 0 rd op s

/-- R354. -/
def execBic (c : Cond) (sf : Bool) (rn rd : Reg) (op : Operand2) (s : State) : Result :=
  conditional c (restrictDp rn rd op) s fun s => dataProcessing .bic sf (readReg s rn) rd op s

/-- R355. -/
def execMvn (c : Cond) (sf : Bool) (sbz : BitVec 4) (rd : Reg) (op : Operand2) (s : State) : Result :=
  conditional c (restrictDpSbz sbz rd op) s fun s => dataProcessing .mvn sf 0 rd op s

end Sys2Proof.Machine
end

