-- ==== Sys2Proof/Machine/LoadStore.lean ====
section
/-! DEFINITION. Single-word and byte transfers, their User-mode forms, half-word and signed transfers, and swap (spec
45_load_store.md R410 to R443). -/

namespace Sys2Proof.Machine

/-- `LoadPC(addr, v)` (R418). -/
def loadPc (addr v : Word) (s : State) : Result :=
  if addr.extractLsb' 0 2 ≠ 0 then .fault .unalignedLoadPc else .next (jump (alignWord v) s)

/-- A load: the read, the base written, then the register (R411, R415, R417, R432, R436, R437). -/
def load (w : Width) (x : Extend) (a : Address) (rn rd : Reg) (s : State) : Result :=
  andThen (busRead w a.addr (prefetch s)) fun r =>
    let s' := writeBack rn a.wb r.2
    if rd = 15 then loadPc a.addr r.1 s' else complete (writeReg rd (extendLoad x r.1) s')

/-- A store: the value is read before the base is written (R411, R416, R419, R420, R433). -/
def store (w : Width) (a : Address) (rn rd : Reg) (s : State) : Result :=
  andThen (busWrite w a.addr (storeValue s (modeBank s.cpsr.mode) rd) (prefetch s)) fun s' =>
    complete (writeBack rn a.wb s')

/-- R415. -/
def execLdr (c : Cond) (ix : Indexing) (u : Bool) (rn rd : Reg) (off : Offset) (s : State) : Result :=
  conditional c (restrictSingle false ix rn rd off) s fun s => load .word .zero (singleAddress ix u rn off s) rn rd s

/-- R416. -/
def execStr (c : Cond) (ix : Indexing) (u : Bool) (rn rd : Reg) (off : Offset) (s : State) : Result :=
  conditional c (restrictSingle false ix rn rd off) s fun s => store .word (singleAddress ix u rn off s) rn rd s

/-- R417. -/
def execLdrb (c : Cond) (ix : Indexing) (u : Bool) (rn rd : Reg) (off : Offset) (s : State) : Result :=
  conditional c (restrictSingle true ix rn rd off) s fun s => load .byte .zero (singleAddress ix u rn off s) rn rd s

/-- R419. -/
def execStrb (c : Cond) (ix : Indexing) (u : Bool) (rn rd : Reg) (off : Offset) (s : State) : Result :=
  conditional c (restrictSingle true ix rn rd off) s fun s => store .byte (singleAddress ix u rn off s) rn rd s

/-- R425, R426. -/
def execLdrt (c : Cond) (u : Bool) (rn rd : Reg) (off : Offset) (s : State) : Result :=
  conditional c (restrictSingle false .post rn rd off) s fun s =>
    load .word .zero (singleAddress .post u rn off s) rn rd s

/-- R425, R427. -/
def execStrt (c : Cond) (u : Bool) (rn rd : Reg) (off : Offset) (s : State) : Result :=
  conditional c (restrictSingle false .post rn rd off) s fun s => store .word (singleAddress .post u rn off s) rn rd s

/-- R425, R428. -/
def execLdrbt (c : Cond) (u : Bool) (rn rd : Reg) (off : Offset) (s : State) : Result :=
  conditional c (restrictSingle true .post rn rd off) s fun s =>
    load .byte .zero (singleAddress .post u rn off s) rn rd s

/-- R425, R429. -/
def execStrbt (c : Cond) (u : Bool) (rn rd : Reg) (off : Offset) (s : State) : Result :=
  conditional c (restrictSingle true .post rn rd off) s fun s => store .byte (singleAddress .post u rn off s) rn rd s

/-- R433. -/
def execStrh (c : Cond) (p u w : Bool) (rn rd : Reg) (off : HalfOffset) (s : State) : Result :=
  conditional c (restrictHalf p w rn rd off) s fun s => store .half (halfAddress p u w rn off s) rn rd s

/-- R432. -/
def execLdrh (c : Cond) (p u w : Bool) (rn rd : Reg) (off : HalfOffset) (s : State) : Result :=
  conditional c (restrictHalf p w rn rd off) s fun s => load .half .zero (halfAddress p u w rn off s) rn rd s

/-- R436. -/
def execLdrsb (c : Cond) (p u w : Bool) (rn rd : Reg) (off : HalfOffset) (s : State) : Result :=
  conditional c (restrictHalf p w rn rd off) s fun s => load .byte .signByte (halfAddress p u w rn off s) rn rd s

/-- R437. -/
def execLdrsh (c : Cond) (p u w : Bool) (rn rd : Reg) (off : HalfOffset) (s : State) : Result :=
  conditional c (restrictHalf p w rn rd off) s fun s => load .half .signHalf (halfAddress p u w rn off s) rn rd s

/-- A swap: the read, the write of `x[Rm]` at the same address, then the register (R440, R441). -/
def swap (w : Width) (rn rd rm : Reg) (s : State) : Result :=
  let a := readReg s rn
  andThen (busRead w a (prefetch s)) fun r =>
    andThen (busWrite w a (readReg s rm) r.2) fun s' => complete (writeReg rd r.1 s')

/-- R440. -/
def execSwp (c : Cond) (rn rd rm : Reg) (s : State) : Result :=
  conditional c (restrictSwap rn rd rm) s fun s => swap .word rn rd rm s

/-- R441. -/
def execSwpb (c : Cond) (rn rd rm : Reg) (s : State) : Result :=
  conditional c (restrictSwap rn rd rm) s fun s => swap .byte rn rd rm s

end Sys2Proof.Machine
end

