-- ==== Sys2Proof/Machine/Multiply.lean ====
section
/-! DEFINITION. The six multiplies (spec 44_multiply.md R385 to R392). The product is the native one the rules give;
that the Booth engine of Booth.lean computes the same (R380) is a statement of its own. -/

namespace Sys2Proof.Machine

/-- `zext_64(x[Rm]) * zext_64(x[Rs])` (R387, R389). -/
def unsignedProduct (rm rs : Word) : DWord := rm.setWidth 64 * rs.setWidth 64

/-- `sint(x[Rm]) * sint(x[Rs]) mod 2^64` (R391). -/
def signedProduct (rm rs : Word) : DWord := rm.signExtend 64 * rs.signExtend 64

/-- The product of a variant. -/
def product (signed : Bool) (rm rs : Word) : DWord :=
  if signed then signedProduct rm rs else unsignedProduct rm rs

/-- The multiply unit after a multiply (R377 to R382): as the loop leaves it, the accumulators cleared. -/
def useMulUnit (signed : Bool) (rm rs : Word) (s : State) : State :=
  { s with mul := clearAccumulators (boothRun signed rm rs) }

/-- The flags of MUL and MLA with `S = 1` (R386): C is a free bit. -/
def setMulFlags (sf : Bool) (r : Word) (s : State) : State :=
  if sf then { s with cpsr := mulFlags r (Config.freeBit s.draws) s.cpsr, draws := s.draws + 1 } else s

/-- The flags of the long multiplies with `S = 1` (R386): C and V are free bits. -/
def setLongMulFlags (sf : Bool) (r : DWord) (s : State) : State :=
  if sf then
    { s with cpsr := longMulFlags r (Config.freeBit s.draws) (Config.freeBit (s.draws + 1)) s.cpsr,
             draws := s.draws + 2 }
  else s

/-- MUL and MLA (R387, R388): the low word of the product and what is added. -/
def multiply (sf : Bool) (rd rs rm : Reg) (acc : Word) (s : State) : Result :=
  let p := unsignedProduct (readReg s rm) (readReg s rs) + acc.setWidth 64
  let r := p.setWidth 32
  complete (setMulFlags sf r (writeReg rd r (useMulUnit false (readReg s rm) (readReg s rs) (prefetch s))))

/-- The long multiplies (R389 to R392). -/
def longMultiply (signed sf : Bool) (rdHi rdLo rs rm : Reg) (acc : DWord) (s : State) : Result :=
  let p := product signed (readReg s rm) (readReg s rs) + acc
  complete (setLongMulFlags sf p (writeReg rdHi (p.extractLsb' 32 32) (writeReg rdLo (p.setWidth 32)
    (useMulUnit signed (readReg s rm) (readReg s rs) (prefetch s)))))

/-- `x[RdHi] ++ x[RdLo]` (R390, R392). -/
def longAccumulator (s : State) (rdHi rdLo : Reg) : DWord := readReg s rdHi ++ readReg s rdLo

/-- R387. -/
def execMul (c : Cond) (sf : Bool) (rd : Reg) (sbz : BitVec 4) (rs rm : Reg) (s : State) : Result :=
  conditional c (restrictMul rd sbz rs rm) s fun s => multiply sf rd rs rm 0 s

/-- R388. -/
def execMla (c : Cond) (sf : Bool) (rd rn rs rm : Reg) (s : State) : Result :=
  conditional c (restrictMla rd rn rs rm) s fun s => multiply sf rd rs rm (readReg s rn) s

/-- R389. -/
def execUmull (c : Cond) (sf : Bool) (rdHi rdLo rs rm : Reg) (s : State) : Result :=
  conditional c (restrictLongMul rdHi rdLo rs rm) s fun s => longMultiply false sf rdHi rdLo rs rm 0 s

/-- R390. -/
def execUmlal (c : Cond) (sf : Bool) (rdHi rdLo rs rm : Reg) (s : State) : Result :=
  conditional c (restrictLongMul rdHi rdLo rs rm) s fun s =>
    longMultiply false sf rdHi rdLo rs rm (longAccumulator s rdHi rdLo) s

/-- R391. -/
def execSmull (c : Cond) (sf : Bool) (rdHi rdLo rs rm : Reg) (s : State) : Result :=
  conditional c (restrictLongMul rdHi rdLo rs rm) s fun s => longMultiply true sf rdHi rdLo rs rm 0 s

/-- R392. -/
def execSmlal (c : Cond) (sf : Bool) (rdHi rdLo rs rm : Reg) (s : State) : Result :=
  conditional c (restrictLongMul rdHi rdLo rs rm) s fun s =>
    longMultiply true sf rdHi rdLo rs rm (longAccumulator s rdHi rdLo) s

end Sys2Proof.Machine
end

