-- ==== Sys2Proof/Machine/PsrTransfer.lean ====
section
/-! DEFINITION. MRS and MSR (spec 47_psr_transfer.md R490 to R496). -/

namespace Sys2Proof.Machine

/-- R490, `R = 0`. -/
def execMrsCpsr (c : Cond) (rd : Reg) (s : State) : Result :=
  conditional c (restrictMrs rd) s fun s => complete (writeReg rd (psrWord s.cpsr) (prefetch s))

/-- R490, `R = 1`. -/
def execMrsSpsr (c : Cond) (rd : Reg) (s : State) : Result :=
  conditional c (restrictMrs rd) s fun s =>
    match readSpsr s with
    | none => .fault .noSpsr
    | some v => complete (writeReg rd v (prefetch s))

/-- The flags field of an MSR to the CPSR (R493). -/
def msrFlags (mask : BitVec 4) (v : Word) (s : State) : State :=
  if mask.getLsbD 3 then { s with cpsr := withFlags s.cpsr v } else s

/-- The control field of an MSR to the CPSR (R493): nothing in User mode, else the checked mode with I and F. -/
def msrControl (mask : BitVec 4) (v : Word) (s : State) : Result :=
  if mask.getLsbD 0 && privileged s.cpsr.mode then
    andThen (checkMode v) fun m =>
      .next { s with cpsr := { s.cpsr with mode := m, i := v.getLsbD 7, f := v.getLsbD 6 } }
  else .next s

/-- One byte of a word replaced when its mask bit is set (R495). -/
def maskByte (mask : BitVec 4) (old v : Word) (k : Nat) : Byte :=
  if mask.getLsbD k then byteOf v k else byteOf old k

/-- An SPSR after an MSR (R495). -/
def maskWord (mask : BitVec 4) (old v : Word) : Word :=
  wordOfBytes (maskByte mask old v 0) (maskByte mask old v 1) (maskByte mask old v 2) (maskByte mask old v 3)

/-- The write of an MSR (R493 to R495). -/
def msrWrite (r : PsrSel) (mask : BitVec 4) (v : Word) (s : State) : Result :=
  match r with
  | .cpsr => msrControl mask v (msrFlags mask v s)
  | .spsr =>
    match readSpsr s with
    | none => .fault .noSpsr
    | some old => .next (writeSpsr (modeBank s.cpsr.mode) (maskWord mask old v) s)

/-- R493, R495, register form. -/
def execMsrReg (c : Cond) (r : PsrSel) (mask : BitVec 4) (rm : Reg) (s : State) : Result :=
  conditional c (restrictMsrReg rm) s fun s => andThen (msrWrite r mask (readReg s rm) (prefetch s)) complete

/-- R493, R495, immediate form. -/
def execMsrImm (c : Cond) (r : PsrSel) (mask rot : BitVec 4) (imm8 : Byte) (s : State) : Result :=
  conditional c none s fun s => andThen (msrWrite r mask (rotatedImm rot imm8) (prefetch s)) complete

end Sys2Proof.Machine
end

