-- ==== Sys2Proof/Machine/Dispatch.lean ====
section
/-! DEFINITION. One arm per instruction. -/

namespace Sys2Proof.Machine

def exec (i : Instr) (s : State) : Host.Outcome State Fault Refusal :=
  match i with
  | .b c imm24 => Sys2Proof.Machine.execB c imm24 s
  | .bl c imm24 => Sys2Proof.Machine.execBl c imm24 s
  | .swi c comment => Sys2Proof.Machine.execSwi c comment s
  | .mul c sf rd sbz rs rm => Sys2Proof.Machine.execMul c sf rd sbz rs rm s
  | .mla c sf rd rn rs rm => Sys2Proof.Machine.execMla c sf rd rn rs rm s
  | .umull c sf rdHi rdLo rs rm => Sys2Proof.Machine.execUmull c sf rdHi rdLo rs rm s
  | .umlal c sf rdHi rdLo rs rm => Sys2Proof.Machine.execUmlal c sf rdHi rdLo rs rm s
  | .smull c sf rdHi rdLo rs rm => Sys2Proof.Machine.execSmull c sf rdHi rdLo rs rm s
  | .smlal c sf rdHi rdLo rs rm => Sys2Proof.Machine.execSmlal c sf rdHi rdLo rs rm s
  | .and c sf rn rd op => Sys2Proof.Machine.execAnd c sf rn rd op s
  | .eor c sf rn rd op => Sys2Proof.Machine.execEor c sf rn rd op s
  | .sub c sf rn rd op => Sys2Proof.Machine.execSub c sf rn rd op s
  | .rsb c sf rn rd op => Sys2Proof.Machine.execRsb c sf rn rd op s
  | .add c sf rn rd op => Sys2Proof.Machine.execAdd c sf rn rd op s
  | .adc c sf rn rd op => Sys2Proof.Machine.execAdc c sf rn rd op s
  | .sbc c sf rn rd op => Sys2Proof.Machine.execSbc c sf rn rd op s
  | .rsc c sf rn rd op => Sys2Proof.Machine.execRsc c sf rn rd op s
  | .tst c rn sbz op => Sys2Proof.Machine.execTst c rn sbz op s
  | .teq c rn sbz op => Sys2Proof.Machine.execTeq c rn sbz op s
  | .cmp c rn sbz op => Sys2Proof.Machine.execCmp c rn sbz op s
  | .cmn c rn sbz op => Sys2Proof.Machine.execCmn c rn sbz op s
  | .orr c sf rn rd op => Sys2Proof.Machine.execOrr c sf rn rd op s
  | .mov c sf sbz rd op => Sys2Proof.Machine.execMov c sf sbz rd op s
  | .bic c sf rn rd op => Sys2Proof.Machine.execBic c sf rn rd op s
  | .mvn c sf sbz rd op => Sys2Proof.Machine.execMvn c sf sbz rd op s
  | .ldr c ix u rn rd off => Sys2Proof.Machine.execLdr c ix u rn rd off s
  | .str c ix u rn rd off => Sys2Proof.Machine.execStr c ix u rn rd off s
  | .ldrb c ix u rn rd off => Sys2Proof.Machine.execLdrb c ix u rn rd off s
  | .strb c ix u rn rd off => Sys2Proof.Machine.execStrb c ix u rn rd off s
  | .ldrt c u rn rd off => Sys2Proof.Machine.execLdrt c u rn rd off s
  | .strt c u rn rd off => Sys2Proof.Machine.execStrt c u rn rd off s
  | .ldrbt c u rn rd off => Sys2Proof.Machine.execLdrbt c u rn rd off s
  | .strbt c u rn rd off => Sys2Proof.Machine.execStrbt c u rn rd off s
  | .strh c p u wb rn rd off => Sys2Proof.Machine.execStrh c p u wb rn rd off s
  | .ldrh c p u wb rn rd off => Sys2Proof.Machine.execLdrh c p u wb rn rd off s
  | .ldrsb c p u wb rn rd off => Sys2Proof.Machine.execLdrsb c p u wb rn rd off s
  | .ldrsh c p u wb rn rd off => Sys2Proof.Machine.execLdrsh c p u wb rn rd off s
  | .ldmia c sf wb rn list => Sys2Proof.Machine.execLdmia c sf wb rn list s
  | .ldmib c sf wb rn list => Sys2Proof.Machine.execLdmib c sf wb rn list s
  | .ldmda c sf wb rn list => Sys2Proof.Machine.execLdmda c sf wb rn list s
  | .ldmdb c sf wb rn list => Sys2Proof.Machine.execLdmdb c sf wb rn list s
  | .stmia c sf wb rn list => Sys2Proof.Machine.execStmia c sf wb rn list s
  | .stmib c sf wb rn list => Sys2Proof.Machine.execStmib c sf wb rn list s
  | .stmda c sf wb rn list => Sys2Proof.Machine.execStmda c sf wb rn list s
  | .stmdb c sf wb rn list => Sys2Proof.Machine.execStmdb c sf wb rn list s
  | .swp c rn rd rm => Sys2Proof.Machine.execSwp c rn rd rm s
  | .swpb c rn rd rm => Sys2Proof.Machine.execSwpb c rn rd rm s
  | .mrsCpsr c rd => Sys2Proof.Machine.execMrsCpsr c rd s
  | .mrsSpsr c rd => Sys2Proof.Machine.execMrsSpsr c rd s
  | .msrReg c r mask rm => Sys2Proof.Machine.execMsrReg c r mask rm s
  | .msrImm c r mask rot imm8 => Sys2Proof.Machine.execMsrImm c r mask rot imm8 s
  | .cdp c op1 crn crd cp op2 crm => Sys2Proof.Machine.execCdp c op1 crn crd cp op2 crm s
  | .ldc c p u n wb rn crd cp imm8 => Sys2Proof.Machine.execLdc c p u n wb rn crd cp imm8 s
  | .stc c p u n wb rn crd cp imm8 => Sys2Proof.Machine.execStc c p u n wb rn crd cp imm8 s
  | .mcr c op1 crn rd cp op2 crm => Sys2Proof.Machine.execMcr c op1 crn rd cp op2 crm s
  | .mrc c op1 crn rd cp op2 crm => Sys2Proof.Machine.execMrc c op1 crn rd cp op2 crm s
  | .undefined word => Sys2Proof.Machine.execUndefined word s

end Sys2Proof.Machine
end

