-- ==== Sys2Proof/Machine/Step.lean ====
section
/-! DEFINITION. One step of the machine: a reset, an interrupt entry, or the next instruction. -/

namespace Sys2Proof.Machine

/-- The next instruction decoded and executed; one that was not fetched from memory faults (spec 20_memory.md R103,
40_sequencer.md R227, R229). -/
def executeNext (s : State) : Host.Outcome State Fault Refusal :=
  if s.pipe.next.ok then exec (decode s.pipe.next.word) (makeCurrent s) else .fault .fetchedOutsideMemory

/-- A step with the levels sampled (R229). -/
def runStep (s : State) : Host.Outcome State Fault Refusal :=
  match boundaryInterrupt (beginStep s) with
  | some e => .next (takeInterrupt e (beginStep s))
  | none => executeNext (beginStep s)

/-- One step (60_exceptions.md R558): a reset line first, then FIQ, IRQ, the instruction. -/
def step (s : State) : Host.Outcome State Fault Refusal :=
  if (sampleInput s).1 then .next (doReset (sampleInput s).2) else runStep (sampleInput s).2

/-- The state with an instruction placed where the next step fetches it (log entry 14). -/
def State.withFetchWord (s : State) (nbits w : Nat) : State := placeWord (BitVec.ofNat 32 (w % 2 ^ nbits)) s

end Sys2Proof.Machine
end

