-- ==== Sys2Proof/Machine/Banks.lean ====
section
/-! DEFINITION. The register file as the hardware organises it, live registers and shadow banks, with the swap of a mode
switch (spec 10_state.md R43 to R46), and the physical registers it stands for. State holds the physical registers. -/

namespace Sys2Proof.Machine

/-- The live registers 0 to 14 and the shadow banks (R43): User and FIQ hold R8 to R14, the others R13 and R14. -/
structure BankedFile where
  live : Vector Word 15
  usr  : Vector Word 7
  fiq  : Vector Word 7
  irq  : Vector Word 2
  svc  : Vector Word 2
  abt  : Vector Word 2
  und  : Vector Word 2
  deriving DecidableEq, Repr

/-- `i ∈ banked(b)` (R34). -/
def isBanked (b : Bank) (i : Nat) : Bool :=
  match b with
  | .usr => false
  | .fiq => 8 ≤ i && i ≤ 14
  | .irq => 13 ≤ i && i ≤ 14
  | .svc => 13 ≤ i && i ≤ 14
  | .abt => 13 ≤ i && i ≤ 14
  | .und => 13 ≤ i && i ≤ 14

/-- A shadow slot of a bank read (R43). -/
def shadowGet (f : BankedFile) (b : Bank) (i : Nat) : Word :=
  match b with
  | .usr => f.usr.getD (i - 8) 0
  | .fiq => f.fiq.getD (i - 8) 0
  | .irq => f.irq.getD (i - 13) 0
  | .svc => f.svc.getD (i - 13) 0
  | .abt => f.abt.getD (i - 13) 0
  | .und => f.und.getD (i - 13) 0

/-- A shadow slot of a bank written. -/
def shadowSet (f : BankedFile) (b : Bank) (i : Nat) (v : Word) : BankedFile :=
  match b with
  | .usr => { f with usr := f.usr.setIfInBounds (i - 8) v }
  | .fiq => { f with fiq := f.fiq.setIfInBounds (i - 8) v }
  | .irq => { f with irq := f.irq.setIfInBounds (i - 13) v }
  | .svc => { f with svc := f.svc.setIfInBounds (i - 13) v }
  | .abt => { f with abt := f.abt.setIfInBounds (i - 13) v }
  | .und => { f with und := f.und.setIfInBounds (i - 13) v }

/-- The bank `store(b, i)` names (R45). -/
def storeBank (b : Bank) (i : Nat) : Bank := if isBanked b i then b else .usr

/-- The registers a switch between two banks swaps (R45). -/
def swapSet (bo bn : Bank) : List Nat := (List.range 15).filter fun i => isBanked bo i || isBanked bn i

/-- The outgoing registers saved (R45). -/
def saveOutgoing (bo : Bank) (f : BankedFile) : List Nat → BankedFile
  | [] => f
  | i :: rest => saveOutgoing bo (shadowSet f (storeBank bo i) i (f.live.getD i 0)) rest

/-- The incoming registers loaded (R45). -/
def loadIncoming (bn : Bank) (f : BankedFile) : List Nat → BankedFile
  | [] => f
  | i :: rest => loadIncoming bn { f with live := f.live.setIfInBounds i (shadowGet f (storeBank bn i) i) } rest

/-- The swap of `SetMode` (R45): none between modes of one bank. -/
def swapBanks (old new : Mode) (f : BankedFile) : BankedFile :=
  let bo := modeBank old
  let bn := modeBank new
  if bo = bn then f else loadIncoming bn (saveOutgoing bo f (swapSet bo bn)) (swapSet bo bn)

/-- Register `R<i>_b` in mode `m` (R44): live where `phys(m, i)` is it, else its shadow slot. -/
def bankedReg (m : Mode) (f : BankedFile) (b : Bank) (i : Nat) : Word :=
  if phys (modeBank m) (Fin.ofNat 16 i) = phys b (Fin.ofNat 16 i) then f.live.getD i 0
  else shadowGet f (storeBank b i) i

/-- The physical registers the file stands for in a mode (R35, R44), in the order of `physTable`. -/
def physOf (m : Mode) (f : BankedFile) : Vector Word 30 :=
  #v[bankedReg m f .usr 0, bankedReg m f .usr 1, bankedReg m f .usr 2, bankedReg m f .usr 3,
     bankedReg m f .usr 4, bankedReg m f .usr 5, bankedReg m f .usr 6, bankedReg m f .usr 7,
     bankedReg m f .usr 8, bankedReg m f .usr 9, bankedReg m f .usr 10, bankedReg m f .usr 11,
     bankedReg m f .usr 12, bankedReg m f .usr 13, bankedReg m f .usr 14,
     bankedReg m f .fiq 8, bankedReg m f .fiq 9, bankedReg m f .fiq 10, bankedReg m f .fiq 11,
     bankedReg m f .fiq 12, bankedReg m f .fiq 13, bankedReg m f .fiq 14,
     bankedReg m f .irq 13, bankedReg m f .irq 14, bankedReg m f .svc 13, bankedReg m f .svc 14,
     bankedReg m f .abt 13, bankedReg m f .abt 14, bankedReg m f .und 13, bankedReg m f .und 14]

end Sys2Proof.Machine
end

