-- ==== Sys2Proof/Machine/HostInterface.lean ====
section
/-! DEFINITION. The host's registration calls, before a run (spec 42_branch_swi.md R316, 48_coprocessor.md R514). -/

namespace Sys2Proof.Machine

/-- `SWIRegistrationError` (R316). -/
inductive SwiRegistrationError where
  | alreadyRegistered
  | invalidNumber
  deriving DecidableEq, Repr

/-- `CoProcessorRegistrationError` (R514). -/
inductive CpRegistrationError where
  | alreadyRegistered
  | invalidId
  deriving DecidableEq, Repr

/-- A callback registered for a key (R316): a number outside the table and a slot in use fail, that call only. -/
def registerSwi (key : Nat) (cfg : Config) : Except SwiRegistrationError Config :=
  if cfg.swiTableSize ≤ key then .error .invalidNumber
  else if cfg.swiTable.contains key then .error .alreadyRegistered
  else .ok { cfg with swiTable := key :: cfg.swiTable }

/-- A plug-in registered in a coprocessor slot (R514); `given` says whether it is the model's function or leaves its answers
open (R516). -/
def registerCoprocessor (id : Nat) (given : Bool) (cfg : Config) : Except CpRegistrationError Config :=
  if h : id < 16 then
    (if cfg.cpSlots.contains ⟨id, h⟩ then .error .alreadyRegistered
     else .ok { cfg with cpSlots := ⟨id, h⟩ :: cfg.cpSlots,
                         cpPlugIns := if given then ⟨id, h⟩ :: cfg.cpPlugIns else cfg.cpPlugIns })
  else .error .invalidId

end Sys2Proof.Machine
end

