-- ==== Sys2Proof/Machine/Recipe.lean ====
section
/-! DEFINITION. The recipe of every instruction: its control words, stage by stage (spec 40_sequencer.md R221, R222,
R230, R236, R241 to R245). -/

namespace Sys2Proof.Machine

/-- The last stages of a recipe with a control transfer (R236). -/
def refillStages : List ControlWord := [refill1Word, ipipeWord]

/-- The entry stage of an exception (R242). -/
def entryStage (e : Exc) : ControlWord :=
  { bSel := .imm (vector e), update := { pc := true }, special := .entry e }

/-- `EntryRecipe(e)` (R242); `UndefRecipe` is the one of `Undefined` (R243). -/
def entryRecipe (e : Exc) : List ControlWord := entryStage e :: refillStages

/-- A decoded recipe: every control word carries the instruction's condition (R220), which its first stage tests (R230).
Synthesized recipes keep AL. -/
def withCond (c : Cond) (ws : List ControlWord) : List ControlWord := ws.map fun w => { w with cond := c }

/-- The update mask of a stage with `IPIPE`. -/
def ipMask : UpdateMask := { ipipe := true }

/-- A control word with the B operand of an operand form (41_alu_shifter.md R271 to R273). -/
def withOperand2 (w : ControlWord) (op : Operand2) : ControlWord :=
  match op with
  | .imm rot imm8 => { w with bSel := .imm (imm8.setWidth 32), shType := .ror, shAmt := .imm (2 * rot.toNat) }
  | .immShift rm ty amount =>
    { w with bSel := .reg rm, shType := (immShift ty amount).1, shAmt := .imm (immShift ty amount).2 }
  | .regShift rm ty rs => { w with bSel := .reg rm, shType := regShiftOp ty, shAmt := .reg rs }

/-- The form needs the extra stage that reads `Rs` (43_data_processing.md R333). -/
def isRegShift : Operand2 → Bool
  | .imm _ _ => false
  | .immShift _ _ _ => false
  | .regShift _ _ _ => true

/-- Data processing that writes a register (R241). -/
def dpRecipe (op : AluOp) (sf : Bool) (aSel : ASel) (rd : Reg) (op2 : Operand2) : List ControlWord :=
  let alu := withOperand2 { aSel := aSel, aluOp := op } op2
  let body : List ControlWord :=
    if rd = 15 then
      { alu with update := { pc := true }, pcFrom := .checked,
                 special := if sf then .restoreCpsr else .none } :: refillStages
    else if isRegShift op2 then [{ alu with dest := some rd, update := { reg := true, flags := sf } }]
    else [{ alu with dest := some rd, update := { reg := true, flags := sf, ipipe := true }, busDrive := .fetch }]
  if isRegShift op2 then ipipeWord :: body else body

/-- TST, TEQ, CMP, CMN (R241). -/
def compareRecipe (op : AluOp) (rn : Reg) (op2 : Operand2) : List ControlWord :=
  let alu := withOperand2 { aSel := .reg rn, aluOp := op } op2
  if isRegShift op2 then [ipipeWord, { alu with update := { flags := true } }]
  else [{ alu with update := { flags := true, ipipe := true }, busDrive := .fetch }]

/-- MUL and MLA (R241). -/
def mulRecipe (sf : Bool) (rd rs rm : Reg) (acc : Option Reg) : List ControlWord :=
  let final : ControlWord :=
    match acc with
    | none => { mulTag := .finalLo .none false }
    | some rn => { mulTag := .finalLo .word false, aSel := .reg rn }
  [{ mulTag := .init false, aSel := .reg rm, bSel := .reg rs, update := ipMask, busDrive := .fetch },
   { mulTag := .loop },
   { final with dest := some rd, update := { reg := true, flags := sf } }]

/-- The long multiplies (R241). -/
def longMulRecipe (signed accumulate sf : Bool) (rdHi rdLo rs rm : Reg) : List ControlWord :=
  let final : ControlWord :=
    if accumulate then { mulTag := .finalLo .dword true, aSel := .reg rdHi, bSel := .reg rdLo }
    else { mulTag := .finalLo .none true }
  [{ mulTag := .init signed, aSel := .reg rm, bSel := .reg rs, update := ipMask, busDrive := .fetch },
   { mulTag := .loop },
   { final with dest := some rdLo, update := { reg := true } },
   { mulTag := .finalHi, dest := some rdHi, update := { reg := true, flags := sf } }]

/-- A control word that forms `Rn` plus or minus an offset of a single-word transfer. -/
def withOffset (w : ControlWord) (u : Bool) (rn : Reg) (off : Offset) : ControlWord :=
  let w := { w with aSel := ASel.reg rn, aluOp := if u then .add else .sub }
  match off with
  | .imm imm12 => { w with bSel := .imm (imm12.setWidth 32) }
  | .reg rm ty amount =>
    { w with bSel := .reg rm, shType := (immShift ty amount).1, shAmt := .imm (immShift ty amount).2 }

/-- A control word that forms `Rn` plus or minus an offset of a half-word transfer. -/
def withHalfOffset (w : ControlWord) (u : Bool) (rn : Reg) (off : HalfOffset) : ControlWord :=
  let w := { w with aSel := ASel.reg rn, aluOp := if u then .add else .sub }
  match off with
  | .imm imm8 => { w with bSel := .imm (imm8.setWidth 32) }
  | .reg _ rm => { w with bSel := .reg rm }

/-- The first stage of a transfer: its address into the address register, and `IP` (R241). -/
def addressStage (p : Bool) (rn : Reg) (sum : ControlWord) : ControlWord :=
  if p then { sum with addrMode := .aluResult, update := { addr := true, ipipe := true }, busDrive := .fetch }
  else { addrMode := .register rn, update := { addr := true, ipipe := true }, busDrive := .fetch }

/-- The base write-back of a transfer's second stage. -/
def baseStage (wb : Bool) (rn : Reg) (sum : ControlWord) : ControlWord :=
  if wb then { sum with dest := some rn, update := { reg := true } } else {}

/-- The LDR family (R241): `sum` forms the indexed address, `p` says the access uses it, `wb` that the base takes it. -/
def loadRecipe (w : Width) (x : Extend) (p wb : Bool) (rn rd : Reg) (sum : ControlWord) : List ControlWord :=
  let s1 := baseStage wb rn sum
  let s1 := { s1 with busDrive := .read w, update := { s1.update with dataIn := true } }
  let tail : List ControlWord :=
    if rd = 15 then { bSel := .dataIn, update := { pc := true }, pcFrom := .loadedAligned } :: refillStages
    else [{ bSel := .dataIn, extend := x, dest := some rd, update := { reg := true } }]
  addressStage p rn sum :: s1 :: tail

/-- The STR family (R241). -/
def storeRecipe (w : Width) (p wb : Bool) (rn rd : Reg) (sum : ControlWord) : List ControlWord :=
  let s1 := baseStage wb rn sum
  [addressStage p rn sum,
   { s1 with busDrive := .write w, storeSel := some rd, update := { s1.update with dataOut := true } }]

/-- Whether an indexing uses the indexed address (R410). -/
def Indexing.usesIndexed : Indexing → Bool
  | .offset => true
  | .pre => true
  | .post => false

/-- Whether an indexing writes the base (R410). -/
def Indexing.writesBase : Indexing → Bool
  | .offset => false
  | .pre => true
  | .post => true

/-- Single-word and byte loads. -/
def singleLoad (w : Width) (ix : Indexing) (u : Bool) (rn rd : Reg) (off : Offset) : List ControlWord :=
  loadRecipe w .zero (Indexing.usesIndexed ix) (Indexing.writesBase ix) rn rd (withOffset {} u rn off)

/-- Single-word and byte stores. -/
def singleStore (w : Width) (ix : Indexing) (u : Bool) (rn rd : Reg) (off : Offset) : List ControlWord :=
  storeRecipe w (Indexing.usesIndexed ix) (Indexing.writesBase ix) rn rd (withOffset {} u rn off)

/-- Half-word and signed loads. -/
def halfLoad (w : Width) (x : Extend) (p u wb : Bool) (rn rd : Reg) (off : HalfOffset) : List ControlWord :=
  loadRecipe w x p (!p || wb) rn rd (withHalfOffset {} u rn off)

/-- SWP and SWPB (R241). -/
def swapRecipe (w : Width) (rn rd rm : Reg) : List ControlWord :=
  [{ addrMode := .register rn, update := { addr := true, ipipe := true }, busDrive := .fetch },
   { busDrive := .read w, update := { dataIn := true } },
   { busDrive := .write w, storeSel := some rm, update := { dataOut := true } },
   { bSel := .dataIn, dest := some rd, update := { reg := true } }]

/-- The first stage of a block transfer: `Rn` plus the offset of the first address (46_block_transfer.md R463). -/
def blockStage (m : BlockMode) (rn : Reg) (list : BitVec 16) : ControlWord :=
  { aSel := .reg rn, bSel := .imm (blockStart m 0 list), aluOp := .add, addrMode := .aluResult,
    update := { addr := true, ipipe := true }, busDrive := .fetch }

/-- The write-back a block transfer makes in its first transfer stage (R464). -/
def blockBase (m : BlockMode) (w : Bool) (rn : Reg) (list : BitVec 16) : ControlWord :=
  if w then { aSel := .reg rn, bSel := .imm (blockFinal m 0 list), aluOp := .add, dest := some rn,
              update := { reg := true } }
  else {}

/-- A stage of a block load: the read, over the stage's own register write. -/
def blockRead (w : ControlWord) : ControlWord :=
  { w with busDrive := .readBlock, addrMode := .increment, update := { w.update with dataIn := true, addr := true } }

/-- The stage that writes a loaded register. -/
def blockAssign (ovr : BankOvr) (i : Reg) : ControlWord :=
  { bSel := .dataIn, dest := some i, update := { reg := true }, bankOvr := ovr }

/-- The stages of a block load after its first read, for the register read before and those still to read. -/
def ldmStages (ovr : BankOvr) (sf : Bool) : Reg → List Reg → List ControlWord
  | prev, [] =>
    if prev = 15 then
      { bSel := .dataIn, update := { pc := true }, pcFrom := .loaded,
        special := if sf then .restoreCpsr else .none } :: refillStages
    else [blockAssign ovr prev]
  | prev, i :: rest => blockRead (blockAssign ovr prev) :: ldmStages ovr sf i rest

/-- LDM (R241). The row gives no recipe for an empty list, which the spec refuses (46_block_transfer.md R467): while such a
word stands in the next queue it holds one control word, `IPIPE` alone (DESIGN CHOICE, log entry 31). -/
def ldmRecipe (m : BlockMode) (sf w : Bool) (rn : Reg) (list : BitVec 16) : List ControlWord :=
  let ovr : BankOvr := if sf && !list.getLsbD 15 then .userWrite else .none
  match listed list with
  | [] => [ipipeWord]
  | i :: rest => blockStage m rn list :: blockRead (blockBase m w rn list) :: ldmStages ovr sf i rest

/-- The stage of a block store of a register, over the stage's own register write. -/
def blockWrite (ovr : BankOvr) (i : Reg) (w : ControlWord) : ControlWord :=
  { w with busDrive := .write .word, storeSel := some i, bankOvr := ovr, addrMode := .increment,
           update := { w.update with dataOut := true, addr := true } }

/-- STM (R241). For an empty list, which the spec refuses (46_block_transfer.md R467), one control word, as for LDM (DESIGN
CHOICE, log entry 31). -/
def stmRecipe (m : BlockMode) (sf w : Bool) (rn : Reg) (list : BitVec 16) : List ControlWord :=
  let ovr : BankOvr := if sf then .userRead else .none
  match listed list with
  | [] => [ipipeWord]
  | i :: rest =>
    blockStage m rn list :: blockWrite ovr i (blockBase m w rn list) :: rest.map fun j => blockWrite ovr j {}

/-- MSR (R241). -/
def msrRecipe (r : PsrSel) (mask : BitVec 4) (w : ControlWord) : List ControlWord :=
  [{ w with special := .msr r mask, update := ipMask, busDrive := .fetch }]

/-- The handshake stage (R232). -/
def cpInitStage : ControlWord := { cpTag := .init }

/-- LDC and STC (R241, R248): `drive` is the access of the transfer stage, which loads neither `dataIn` nor `dataOut`: the word
goes between the bus and the coprocessor's lines (DESIGN CHOICE, log entry 26: R241 gives the stage no `DATAIN` and no
`DATAOUT`). -/
def cpTransferRecipe (p u w : Bool) (rn : Reg) (imm8 : Byte) (drive : BusDrive) : List ControlWord :=
  let sum : ControlWord := { aSel := .reg rn, bSel := .imm (imm8.setWidth 32 * 4), aluOp := if u then .add else .sub }
  let s2 := baseStage w rn sum
  [cpInitStage, addressStage p rn sum,
   { s2 with cpTag := .xfer, busDrive := drive, addrMode := .increment, update := { s2.update with addr := true } }]

/-- The recipe of an instruction (R241); whether an SWI has a callback is the host's table (42_branch_swi.md R316). The
transfer stage of an MCR loads the latch `dataOut` with Rd, beside the coprocessor's data-out lines (DESIGN CHOICE, log
entry 26: R241 gives the stage no `DATAOUT`, and 48_coprocessor.md R520 speaks of the lines alone). -/
def recipe (cfg : Config) : Instr → List ControlWord
  | .b c imm24 =>
    withCond c ({ aSel := .pcval, bSel := .imm (branchTarget 0 imm24 - 8), aluOp := .add, update := { pc := true } } ::
      refillStages)
  | .bl c imm24 =>
    withCond c [{ aSel := .pcval, bSel := .imm (branchTarget 0 imm24 - 8), aluOp := .add, update := { pc := true } },
      { refill1Word with aSel := .pcval, bSel := .imm 4, aluOp := .sub, dest := some 14, update := { reg := true } },
      ipipeWord]
  | .swi c comment =>
    withCond c (if swiRegistered cfg (swiKey comment) then
      [{ update := ipMask, busDrive := .fetch, special := .swiHook (swiKey comment) }] else entryRecipe .swi)
  | .mul c sf rd _ rs rm => withCond c (mulRecipe sf rd rs rm none)
  | .mla c sf rd rn rs rm => withCond c (mulRecipe sf rd rs rm (some rn))
  | .umull c sf rdHi rdLo rs rm => withCond c (longMulRecipe false false sf rdHi rdLo rs rm)
  | .umlal c sf rdHi rdLo rs rm => withCond c (longMulRecipe false true sf rdHi rdLo rs rm)
  | .smull c sf rdHi rdLo rs rm => withCond c (longMulRecipe true false sf rdHi rdLo rs rm)
  | .smlal c sf rdHi rdLo rs rm => withCond c (longMulRecipe true true sf rdHi rdLo rs rm)
  | .and c sf rn rd op => withCond c (dpRecipe .and sf (.reg rn) rd op)
  | .eor c sf rn rd op => withCond c (dpRecipe .eor sf (.reg rn) rd op)
  | .sub c sf rn rd op => withCond c (dpRecipe .sub sf (.reg rn) rd op)
  | .rsb c sf rn rd op => withCond c (dpRecipe .rsb sf (.reg rn) rd op)
  | .add c sf rn rd op => withCond c (dpRecipe .add sf (.reg rn) rd op)
  | .adc c sf rn rd op => withCond c (dpRecipe .adc sf (.reg rn) rd op)
  | .sbc c sf rn rd op => withCond c (dpRecipe .sbc sf (.reg rn) rd op)
  | .rsc c sf rn rd op => withCond c (dpRecipe .rsc sf (.reg rn) rd op)
  | .tst c rn _ op => withCond c (compareRecipe .tst rn op)
  | .teq c rn _ op => withCond c (compareRecipe .teq rn op)
  | .cmp c rn _ op => withCond c (compareRecipe .cmp rn op)
  | .cmn c rn _ op => withCond c (compareRecipe .cmn rn op)
  | .orr c sf rn rd op => withCond c (dpRecipe .orr sf (.reg rn) rd op)
  | .mov c sf _ rd op => withCond c (dpRecipe .mov sf .none rd op)
  | .bic c sf rn rd op => withCond c (dpRecipe .bic sf (.reg rn) rd op)
  | .mvn c sf _ rd op => withCond c (dpRecipe .mvn sf .none rd op)
  | .ldr c ix u rn rd off => withCond c (singleLoad .word ix u rn rd off)
  | .str c ix u rn rd off => withCond c (singleStore .word ix u rn rd off)
  | .ldrb c ix u rn rd off => withCond c (singleLoad .byte ix u rn rd off)
  | .strb c ix u rn rd off => withCond c (singleStore .byte ix u rn rd off)
  | .ldrt c u rn rd off => withCond c (singleLoad .word .post u rn rd off)
  | .strt c u rn rd off => withCond c (singleStore .word .post u rn rd off)
  | .ldrbt c u rn rd off => withCond c (singleLoad .byte .post u rn rd off)
  | .strbt c u rn rd off => withCond c (singleStore .byte .post u rn rd off)
  | .strh c p u w rn rd off => withCond c (storeRecipe .half p (!p || w) rn rd (withHalfOffset {} u rn off))
  | .ldrh c p u w rn rd off => withCond c (halfLoad .half .zero p u w rn rd off)
  | .ldrsb c p u w rn rd off => withCond c (halfLoad .byte .signByte p u w rn rd off)
  | .ldrsh c p u w rn rd off => withCond c (halfLoad .half .signHalf p u w rn rd off)
  | .ldmia c s w rn list => withCond c (ldmRecipe .ia s w rn list)
  | .ldmib c s w rn list => withCond c (ldmRecipe .ib s w rn list)
  | .ldmda c s w rn list => withCond c (ldmRecipe .da s w rn list)
  | .ldmdb c s w rn list => withCond c (ldmRecipe .db s w rn list)
  | .stmia c s w rn list => withCond c (stmRecipe .ia s w rn list)
  | .stmib c s w rn list => withCond c (stmRecipe .ib s w rn list)
  | .stmda c s w rn list => withCond c (stmRecipe .da s w rn list)
  | .stmdb c s w rn list => withCond c (stmRecipe .db s w rn list)
  | .swp c rn rd rm => withCond c (swapRecipe .word rn rd rm)
  | .swpb c rn rd rm => withCond c (swapRecipe .byte rn rd rm)
  | .mrsCpsr c rd =>
    withCond c [{ special := .mrs .cpsr, dest := some rd, update := { ipipe := true }, busDrive := .fetch }]
  | .mrsSpsr c rd =>
    withCond c [{ special := .mrs .spsr, dest := some rd, update := { ipipe := true }, busDrive := .fetch }]
  | .msrReg c r mask rm => withCond c (msrRecipe r mask { bSel := .reg rm })
  | .msrImm c r mask rot imm8 => withCond c (msrRecipe r mask (withOperand2 {} (.imm rot imm8)))
  | .cdp c _ _ _ _ _ _ => withCond c [cpInitStage, ipipeWord]
  | .ldc c p u _ w rn _ _ imm8 => withCond c (cpTransferRecipe p u w rn imm8 .readBlock)
  | .stc c p u _ w rn _ _ imm8 => withCond c (cpTransferRecipe p u w rn imm8 (.write .word))
  | .mcr c _ _ rd _ _ _ =>
    withCond c [cpInitStage,
      { cpTag := .xfer, storeSel := some rd, update := { dataOut := true, ipipe := true }, busDrive := .fetch }]
  | .mrc c _ _ rd _ _ _ =>
    withCond c [cpInitStage, { cpTag := .xfer, update := { dataIn := true, ipipe := true }, busDrive := .fetch },
      if rd = 15 then { bSel := .dataIn, special := .mrcFlags }
      else { bSel := .dataIn, dest := some rd, update := { reg := true } }]
  | .undefined _ => entryRecipe .undefined

end Sys2Proof.Machine
end

