-- ==== Sys2Proof/Machine/Sequencer.lean ====
section
/-! DEFINITION. One core cycle (spec 40_sequencer.md R228 to R240): the interrupt latch, queue exhaustion, the condition
test, the handshake, the execution of one control word, the holds. -/

namespace Sys2Proof.Machine

/-- The current queue is exhausted: the stage index stands at the terminator (R223, R229). -/
def exhausted (s : State) : Bool := s.seq.curQ.length ≤ s.seq.idx

/-- The control words of a queue, in order (R224). -/
def queueWords (s : State) (q : List Nat) : List ControlWord := q.map s.pool.word

/-- The active control word (R223); the word of a failed condition stands for a missing one. -/
def activeWord (s : State) : ControlWord :=
  match s.seq.curQ[s.seq.idx]? with
  | some h => s.pool.word h
  | none => ipipeWord

/-- `QueueExhausted()` (R229). A word the spec refuses (00_scope.md R17) is refused here, where it would become current; what
it holds in the next queue until then is the model's choice (log entry 31). -/
def queueExhausted (s : State) : Result :=
  match interruptToTake s with
  | some e => setQueue (entryRecipe e) (clearPending e s)
  | none =>
    if s.seq.nextQ.isEmpty then .fault .emptyNextQueue
    else if !s.pipe.next.ok then .fault .fetchedOutsideMemory
    else
      match unpredictable (decode s.pipe.next.word) with
      | some why => .refused (.unpredictable why)
      | none =>
        .next { s with pipe := { s.pipe with valid := false },
                       seq := { curQ := s.seq.nextQ, nextQ := [], idx := 0, cur := s.pc,
                                curWord := s.pipe.next.word } }

/-- Steps 1 to 4 of the core cycle (R228): the latch, exhaustion, and the condition at the first stage (R230). -/
def frontEnd (s : State) : Result :=
  let s1 := latchInterrupts s.lines s
  andThen (if exhausted s1 then queueExhausted s1 else .next s1) fun s2 =>
    if s2.seq.idx = 0 && !condPassed (activeWord s2).cond s2.cpsr then setQueue [ipipeWord] s2 else .next s2

/-- The bank of a stage's register access (R239). -/
def stageBank (user : Bool) (s : State) : Bank := if user then .usr else modeBank s.cpsr.mode

/-- A register read of a stage (R235, R239); R15 reads as `cur + 8` of the instruction in the queue. -/
def stageRead (s : State) (ovr : BankOvr) (i : Reg) : Word :=
  readBank { s with pc := s.seq.cur } (stageBank (ovr == .userRead) s) i

/-- A register write of a stage (R235, R239). -/
def stageWrite (ovr : BankOvr) (i : Reg) (v : Word) (s : State) : State :=
  writeBank (stageBank (ovr == .userWrite) s) i v s

/-- The value a stage stores (R238), before replication: a register, or the word on the coprocessor's data-in lines. -/
def stageStore (w : ControlWord) (s : State) : Word :=
  match w.storeSel with
  | some i => storeValue { s with pc := s.seq.cur } (stageBank (w.bankOvr == .userRead) s) i
  | none => s.cp.lines.dataIn

/-- The A operand (R235 step 1). -/
def aOperand (w : ControlWord) (s : State) : Word :=
  match w.aSel with
  | .none => 0
  | .reg r => stageRead s w.bankOvr r
  | .pcval => s.seq.cur + 8

/-- The B operand before the shifter (R235 step 1); a loaded value is extended here. -/
def bOperand (w : ControlWord) (s : State) : Word :=
  match w.bSel with
  | .none => 0
  | .reg r => stageRead s w.bankOvr r
  | .imm v => v
  | .dataIn => extendLoad w.extend s.latches.dataIn

/-- The shifted B operand with the shifter carry-out (R235 step 2; 41_alu_shifter.md R265). A stage whose shift amount is
`NONE` passes the carry flag on, as a shift by 0 does (DESIGN CHOICE, log entry 34: R220 and R265 give no carry there). -/
def shifted (w : ControlWord) (s : State) : Word × Bool :=
  match w.shAmt with
  | .none => (bOperand w s, s.cpsr.c)
  | .imm n => shift (bOperand w s) w.shType n s.cpsr.c
  | .reg r => shift (bOperand w s) w.shType (shiftAmount (stageRead s w.bankOvr r)) s.cpsr.c

/-- What the final stages of a multiply add (44_multiply.md R382). -/
def accValue (acc : MulAcc) (a b : Word) : DWord :=
  match acc with
  | .none => 0
  | .word => a.setWidth 64
  | .dword => a ++ b

/-- The multiply unit's work in a stage (R377, R378, R382). `P` is added once, at `FINAL_LO`, and stands in `sumHi:sumLo` with
the carries 0 until `FINAL_HI` (DESIGN CHOICE, log entry 29: R382 does not say where it is kept). -/
def mulStage (w : ControlWord) (a b : Word) (s : State) : State :=
  match w.mulTag with
  | .none => s
  | .init signed => { s with mul := boothInit signed a b }
  | .loop => { s with mul := fourStageBooth s.mul }
  | .finalLo acc _ => { s with mul := s.mul.withAcc (boothSum s.mul (accValue acc a b)) 0 }
  | .finalHi => s

/-- The result of a stage (R235 step 3). -/
def stageResult (w : ControlWord) (a : Word) (b : Word × Bool) (s : State) : Word :=
  match w.mulTag with
  | .none => aluResult w.aluOp a b.1 s.cpsr.c
  | .init _ => 0
  | .loop => 0
  | .finalLo _ _ => s.mul.sumLo
  | .finalHi => s.mul.sumHi

/-- The flags of a stage (R235 step 4). -/
def stageFlags (w : ControlWord) (a : Word) (b : Word × Bool) (s : State) : State :=
  match w.mulTag with
  | .none => setAluFlags w.aluOp w.update.flags a b s
  | .init _ => s
  | .loop => s
  | .finalLo _ _ => setMulFlags w.update.flags s.mul.sumLo s
  | .finalHi => setLongMulFlags w.update.flags s.mul.sum s

/-- The accumulators cleared after the last final stage (44_multiply.md R382). -/
def mulEnd (w : ControlWord) (s : State) : State :=
  match w.mulTag with
  | .none => s
  | .init _ => s
  | .loop => s
  | .finalLo _ long => if long then s else { s with mul := clearAccumulators s.mul }
  | .finalHi => { s with mul := clearAccumulators s.mul }

/-- The register write of a stage (R235 step 5). -/
def stageReg (w : ControlWord) (v : Word) (s : State) : State :=
  match w.dest with
  | some i => if w.update.reg then stageWrite w.bankOvr i v s else s
  | none => s

/-- A control transfer of a stage (R236): the pipe emptied, the next address set, the next queue released. -/
def stageJump (t : Word) (s : State) : State := releaseNext (setPc t s)

/-- The PC write of a stage (R235 step 6, R236). -/
def stagePc (w : ControlWord) (v : Word) (s : State) : Result :=
  if !w.update.pc then .next s
  else match w.pcFrom with
    | .target => .next (stageJump v s)
    | .checked => if v.extractLsb' 0 2 ≠ 0 then .fault .unalignedPc else .next (stageJump v s)
    | .loaded => .next (stageJump (alignWord v) s)
    | .loadedAligned =>
      if s.latches.addrReg.extractLsb' 0 2 ≠ 0 then .fault .unalignedLoadPc else .next (stageJump (alignWord v) s)

/-- The width of the store a stage drives; a coprocessor transfer drives a word (20_memory.md R107, R115). -/
def storeWidth (w : ControlWord) : Width :=
  match w.busDrive with
  | .write wd => wd
  | .none => .word
  | .fetch => .word
  | .read _ => .word
  | .readBlock => .word

/-- The latches of a stage (R235 step 6, R237, R238). `old` is the stage's state at its start. -/
def stageLatches (w : ControlWord) (result data : Word) (shC : Bool) (old s : State) : State :=
  { s with latches :=
    { addrReg :=
        if !w.update.addr then s.latches.addrReg
        else match w.addrMode with
          | .increment => s.latches.addrReg + 4
          | .aluResult => result
          | .register r => stageRead old w.bankOvr r
          | .unchanged => s.latches.addrReg
      dataIn :=
        if !w.update.dataIn then s.latches.dataIn
        else if w.cpTag = .xfer then s.cp.lines.dataIn else data
      dataOut := if w.update.dataOut then replicate (storeWidth w) (stageStore w old) else s.latches.dataOut
      shC := shC } }

/-- The fetch of a stage (R235 step 7, R226, R236): into an empty pipe, or the `IPIPE` action, which decodes the next
recipe into control words of the pool (R224). -/
def stageFetch (w : ControlWord) (f : Fetched) (s : State) : Result :=
  if w.busDrive ≠ .fetch then .next s
  else if !w.update.ipipe then
    .next { s with pipe := { s.pipe with ipAddr := s.pipe.fetchAddr, ip := f, fetchAddr := s.pipe.fetchAddr + 4 } }
  else andThen (setNext (recipe s.cfg (decode s.pipe.ip.word)) s) fun s =>
    .next { s with pc := s.pipe.ipAddr,
                   pipe := { valid := true, next := s.pipe.ip, ipAddr := s.pipe.fetchAddr, ip := f,
                             fetchAddr := s.pipe.fetchAddr + 4 } }

/-- The word a coprocessor stage moves (48_coprocessor.md R520 to R527): to the coprocessor in an LDC and MCR, from it in an
STC and MRC. -/
def stageTransfer (w : ControlWord) (data : Word) (old s : State) : State :=
  if w.cpTag ≠ .xfer then s
  else match w.busDrive with
    | .readBlock => driveTransfer (some data) s
    | .write _ => driveTransfer none s
    | .none => s
    | .read _ => s
    | .fetch => driveTransfer (if w.update.dataOut then some (stageStore w old) else none) s

/-- A stage that takes something from the coprocessor looks at its lines (48_coprocessor.md R515): a word, or `last`. MCR
takes nothing. -/
def stageLook (w : ControlWord) (s : State) : State :=
  if w.cpTag = .xfer ∧ w.update.dataOut = false then look (cpAt s.seq.curWord) s else s

/-- The register MRS writes (47_psr_transfer.md R490). -/
def mrsDest (w : ControlWord) (v : Word) (s : State) : State :=
  match w.dest with
  | some i => stageWrite .none i v s
  | none => s

/-- The special action of a stage (R235 step 8). `nextAddr` is the one at the start of the stage. -/
def stageSpecial (w : ControlWord) (b nextAddr : Word) (s : State) : Result :=
  match w.special with
  | .none => .next s
  | .swiHook key => swiHook s.seq.cur key s
  | .entry e =>
    match e with
    | .irq => .next (saveState .irq (nextAddr + 4) s)
    | .fiq => .next (saveState .fiq (nextAddr + 4) s)
    | .undefined => .next (saveState .undefined (s.seq.cur + 4) s)
    | .swi => .next (saveState .swi (s.seq.cur + 4) s)
    | .reset => .next (saveState .reset (s.seq.cur + 4) s)
    | .prefetchAbort => .next (saveState .prefetchAbort (s.seq.cur + 4) s)
    | .dataAbort => .next (saveState .dataAbort (s.seq.cur + 4) s)
  | .restoreCpsr => restoreCpsr s
  | .msr r mask => msrWrite r mask b s
  | .mrs r =>
    match r with
    | .cpsr => .next (mrsDest w (psrWord s.cpsr) s)
    | .spsr =>
      match readSpsr s with
      | none => .fault .noSpsr
      | some v => .next (mrsDest w v s)
  | .mrcFlags => .next { s with cpsr := withFlags s.cpsr s.latches.dataIn }

/-- `Execute(cw)` (R235): `data` is what the bus delivered to a read or fetch of this stage. -/
def executeWord (w : ControlWord) (data : Fetched) (s : State) : Result :=
  let a := aOperand w s
  let b := shifted w s
  let s1 := mulStage w a b.1 s
  let v := stageResult w a b s1
  let s2 := mulEnd w (stageFlags w a b s1)
  let s3 := stageReg w v s2
  andThen (stagePc w v s3) fun s4 =>
    let s5 := stageTransfer w data.word s (stageLatches w v data.word b.2 s s4)
    andThen (stageFetch w data s5) fun s6 => stageSpecial w b.1 s.pc s6

/-- A stage that holds (R233, R248): the multiply loop with work left, or a transfer whose `last` was not raised with this
word. `before` is the state at the start of the stage. -/
def stageHolds (w : ControlWord) (before after : State) : Bool :=
  (w.mulTag == .loop && !boothDone after.mul) ||
    (w.cpTag == .xfer && w.busDrive != .fetch && !before.cp.lines.last)

/-- The base write-back of a repeated transfer stage belongs to its first execution (R248). -/
def dropWriteBack (s : State) : State :=
  match s.seq.curQ[s.seq.idx]? with
  | some h => { s with pool := s.pool.amend h fun w => { w with update := { w.update with reg := false } } }
  | none => s

/-- The executed control word returned to the pool, the next stage active (R228 step 8, R234). -/
def completeStage (s : State) : State :=
  { s with pool := s.pool.release ((unexecuted s).take 1), seq := { s.seq with idx := s.seq.idx + 1 } }

/-- Steps 6 to 8 of the core cycle (R228). -/
def finishStage (w : ControlWord) (data : Fetched) (s : State) : Result :=
  andThen (executeWord w data s) fun s' =>
    if stageHolds w s s' then .next (dropWriteBack s')
    else .next (completeStage s')

/-- Steps 5 to 8 of the core cycle (R228, R232, 48_coprocessor.md R512): the first cycle of a handshake drives the
request and waits; a later one sees the answer the coprocessor gave in the cycle before (R515). -/
def backEnd (data : Fetched) (s : State) : Result :=
  let w := activeWord s
  if w.cpTag ≠ .init then finishStage w data (stageLook w s)
  else if !s.cp.request then .next (driveRequest s.seq.curWord s)
  else
    let r := reply (cpAt s.seq.curWord) s
    match r.1 with
    | .wait => .next r.2
    | .abort => setQueue (entryRecipe .undefined) (takeReply .abort r.2)
    | .ack => finishStage w data (takeReply .ack r.2)

end Sys2Proof.Machine
end

