-- ==== Sys2Proof/Machine/BusSequencer.lean ====
section
/-! DEFINITION. The wrapper's bus sequencer and the system cycle (spec 20_memory.md R140 to R156,
70_reset_and_hazards.md R610). The first cycle of a stall is the one that finds the miss or the write (log entry 16). -/

namespace Sys2Proof.Machine

/-- What the core asks the bus for in a cycle (R141). -/
inductive Request where
  | none
  | fetch (a : Word)
  | read (w : Width) (a : Word)
  | write (w : Width) (a v : Word)
  deriving DecidableEq, Repr

/-- The request of the active control word (40_sequencer.md R237). -/
def requestOf (s : State) : Request :=
  let w := activeWord s
  match w.busDrive with
  | .none => .none
  | .fetch => .fetch s.pipe.fetchAddr
  | .read wd => .read wd s.latches.addrReg
  | .readBlock => .read .word (alignWord s.latches.addrReg)
  | .write wd => .write wd s.latches.addrReg (stageStore w (stageLook w s))

/-- A word of the line fill (R145): the last one installs the line and returns to `Normal`. -/
def fillWord (s : State) : State :=
  let fill := s.bus.fill ++ [wordAt s.mem (s.bus.base.toNat + 4 * s.bus.fill.length)]
  if fill.length < s.cfg.lineWords then
    { s with bus := { s.bus with wstate := .readingLine, penalty := s.cfg.busSpeed, fill := fill } }
  else
    let r := cacheWriteLine s.cfg s.cache s.bus.base.toNat fill s.draws
    { s with cache := r.1, draws := r.2, bus := { s.bus with wstate := .normal, penalty := 0, fill := [] } }

/-- A cycle of `ReadingLine` (R145). -/
def readingLineTick (s : State) : State :=
  if 1 < s.bus.penalty then { s with bus := { s.bus with penalty := s.bus.penalty - 1 } } else fillWord s

/-- `ReadingLine` entered with word counter 0 (R144). -/
def startLine (s : State) : State :=
  { s with bus := { s.bus with wstate := .readingLine, penalty := s.cfg.busSpeed, fill := [] } }

/-- A cycle of `ReadingLineSetup` (R144). -/
def setupTick (s : State) : State :=
  if 1 < s.bus.penalty then { s with bus := { s.bus with penalty := s.bus.penalty - 1 } } else startLine s

/-- A miss (R143): the line address recorded, the setup penalty begun; without a penalty the first word is under way. -/
def missTick (a : Word) (s : State) : State :=
  let s1 := { s with bus := { s.bus with wstate := .readingLineSetup, penalty := s.cfg.setupCycles,
                                         base := BitVec.ofNat 32 (lineBase s.cfg a.toNat), fill := [] } }
  if s.cfg.setupCycles = 0 then readingLineTick (startLine s1) else setupTick s1

/-- A cycle of `WritingWord` (R149): at the end the core's write stage may complete. -/
def writingTick (s : State) : State :=
  if 1 < s.bus.penalty then { s with bus := { s.bus with penalty := s.bus.penalty - 1 } }
  else { s with bus := { s.bus with wstate := .normal, penalty := 0, done := true } }

/-- The one cycle of `InternalWrite` (R153). -/
def internalTick (s : State) : State := { s with bus := { s.bus with wstate := .normal, done := true } }

/-- The core cycled with what the bus delivered; the mark of a write made is cleared. -/
def cycleCore (data : Fetched) (s : State) : Result :=
  backEnd data { s with bus := { s.bus with done := false } }

/-- Data delivered to a core that fetches or reads nothing. -/
def noData : Fetched := { word := 0, ok := true }

/-- A resident word as the core sees it (R142, R158). -/
def deliver (a : Word) (w : Word) (s : State) : Word × State :=
  let m := wordAt s.mem a.toNat
  if w = m then (w, s) else (if Config.freeBit s.draws then m else w, { s with draws := s.draws + 1 })

/-- `Normal` (R142, R143, R147, R152, R153), on the state `front` the core's front end gives; `s` is the state the
wrapper keeps while the core is not cycled. In the cycle after a stall the front end runs anew on that state, so a line
seen low there at an instruction's first stage is latched and taken in place of the repeated fetch (DESIGN CHOICE, log
entry 27: R145 repeats the request, R155 with R228 and R229 latch in that same core cycle). A poisoned fetch delivers
the word 0 (log entry 28). Memory, the resident line and the peripheral's event change in the first cycle of
`WritingWord` or `InternalWrite`, of which R148, R149 and R153 do not say when, so a reset line during the stall finds
the write made (DESIGN CHOICE, log entry 30). -/
def normalCycle (s front : State) : Result :=
  match requestOf front with
  | .none => cycleCore noData front
  | .fetch a =>
    if a.msb || s.cfg.memLimit ≤ a.toNat then cycleCore { word := 0, ok := false } front
    else match cacheRead s.cfg s.cache (alignWord a).toNat with
      | .hit w =>
        let r := deliver (alignWord a) w front
        cycleCore { word := r.1, ok := true } r.2
      | .miss _ => .next (missTick a s)
  | .read wd a =>
    match busFault s.cfg wd a with
    | some e => .fault e
    | none =>
      if a.msb then
        cycleCore { word := extractRead wd a (Config.freeWord s.draws), ok := true } { front with draws := s.draws + 1 }
      else match cacheRead s.cfg s.cache (alignWord a).toNat with
        | .hit w =>
          let r := deliver (alignWord a) w front
          cycleCore { word := extractRead wd a r.1, ok := true } r.2
        | .miss _ => .next (missTick a s)
  | .write wd a v =>
    if s.bus.done then cycleCore noData front
    else match storeFault s.cfg s.seq.cur wd a with
      | some e => .fault e
      | none =>
        let s1 := storeEffect wd a v s
        if a.msb then .next (internalTick { s1 with bus := { s1.bus with wstate := .internalWrite } })
        else .next (writingTick { s1 with bus := { s1.bus with wstate := .writingWord, penalty := s.cfg.writeCycles } })

/-- One cycle of the bus sequencer (R140). The front end of a core that is then not cycled leaves no trace (log entry
27). -/
def busCycle (s : State) : Result :=
  match s.bus.wstate with
  | .normal => andThen (frontEnd s) (normalCycle s)
  | .readingLineSetup => .next (setupTick s)
  | .readingLine => .next (readingLineTick s)
  | .writingWord => .next (writingTick s)
  | .internalWrite => .next (internalTick s)

/-- One system cycle (70_reset_and_hazards.md R610): the peripherals drive the lines, the wrapper flushes when asked
(R156; before the cycle's own bus request, DESIGN CHOICE, log entry 33), the bus sequencer runs, then the coprocessors (48_coprocessor.md R515), and a reset line acts at the end
(R601). -/
def cycle (s : State) : Result :=
  let x := sampleInput s
  andThen (busCycle (flushIfRequested x.2)) fun s' =>
    let t := coprocessorStage s'
    if x.1 then .next (doReset t) else .next t

/-- Cycles until a queue has been run to its end with the bus idle, at most `fuel`; the count beside. -/
def runQueue : Nat → State → Host.Outcome (State × Nat) Fault Refusal
  | 0, s => .next (s, 0)
  | fuel + 1, s =>
    andThen (cycle s) fun s' =>
      if exhausted s' && !s'.seq.curQ.isEmpty && s'.bus.wstate == .normal then .next (s', 1)
      else andThen (runQueue fuel s') fun r => .next (r.1, r.2 + 1)

/-- An instruction boundary as the cycle level has it: the current queue exhausted, the recipe of the decoded word in the
next queue; with an empty pipe, the seed recipe (R222, R244). -/
def toCycles (s : State) : Result :=
  if s.pipe.valid then setNext (recipe s.cfg (decode s.pipe.next.word)) (releaseQueues s)
  else setQueue refillStages (releaseQueues s)

/-- One instruction or exception entry at the cycle level, from an instruction boundary, with its number of cycles; at
most `fuel` of them. -/
def runInstruction (fuel : Nat) (s : State) : Host.Outcome (State × Nat) Fault Refusal :=
  andThen (toCycles s) (runQueue fuel)

/-- What the two levels share at an instruction boundary (00_scope.md R8): everything but the latches, the queues
with their pool, the bus sequencer, the interrupt latch, the inputs, and what the given plug-ins hold and drive, which
time alone moves (log entry 12). -/
def architectural (s : State) : State :=
  { s with latches := State.reset.latches, seq := State.reset.seq, pool := State.reset.pool, bus := State.reset.bus,
           irq := State.reset.irq, lines := State.reset.lines, inputs := [], cpState := State.reset.cpState,
           cp := { s.cp with lines := State.reset.cp.lines, transfer := false, taken := .wait } }

end Sys2Proof.Machine
end

