-- ==== Sys2Proof/Machine/Timing.lean ====
section
/-! DEFINITION. The cycle counts the spec states (70_reset_and_hazards.md R631, R632): a table of its own, written
apart from the recipes. -/

namespace Sys2Proof.Machine

/-- What a count depends on beside the word (R631): whether the condition passed, the multiply loop cycles `m`, the
coprocessor wait cycles `w`, the words `k` of an LDC or STC, whether an SWI has a callback, and whether a coprocessor
aborted. -/
structure CycleFacts where
  passed   : Bool
  loops    : Nat
  waits    : Nat
  words    : Nat
  callback : Bool
  aborted  : Bool
  deriving DecidableEq, Repr

/-- An exception entry: IRQ, FIQ, the SWI trap, the undefined trap (R631). -/
def entryCycles : Nat := 3

/-- A coprocessor instruction of `n` cycles after its waits; one that is aborted is `w + 1` cycles and the undefined entry
(R631). -/
def coprocessorCycles (f : CycleFacts) (n : Nat) : Nat :=
  if f.aborted then f.waits + 1 + entryCycles else f.waits + n

/-- Data processing that may write R15 (R631). -/
def dpCycles (rd : Reg) (op : Operand2) : Nat := (if rd = 15 then 3 else 1) + (if isRegShift op then 1 else 0)

/-- TST, TEQ, CMP, CMN (R631). -/
def compareCycles (op : Operand2) : Nat := 1 + (if isRegShift op then 1 else 0)

/-- Loads of a word (R631). -/
def loadCycles (rd : Reg) : Nat := if rd = 15 then 5 else 3

/-- LDM (R631). -/
def ldmCycles (list : BitVec 16) : Nat := (listed list).length + (if list.getLsbD 15 then 4 else 2)

/-- STM (R631). -/
def stmCycles (list : BitVec 16) : Nat := (listed list).length + 1

/-- The core cycles of an instruction whose condition passed (R631). -/
def passedCycles (f : CycleFacts) : Instr → Nat
  | .b _ _ => 3
  | .bl _ _ => 3
  | .swi _ _ => if f.callback then 1 else entryCycles
  | .mul _ _ _ _ _ _ => 2 + f.loops
  | .mla _ _ _ _ _ _ => 2 + f.loops
  | .umull _ _ _ _ _ _ => 3 + f.loops
  | .umlal _ _ _ _ _ _ => 3 + f.loops
  | .smull _ _ _ _ _ _ => 3 + f.loops
  | .smlal _ _ _ _ _ _ => 3 + f.loops
  | .and _ _ _ rd op => dpCycles rd op
  | .eor _ _ _ rd op => dpCycles rd op
  | .sub _ _ _ rd op => dpCycles rd op
  | .rsb _ _ _ rd op => dpCycles rd op
  | .add _ _ _ rd op => dpCycles rd op
  | .adc _ _ _ rd op => dpCycles rd op
  | .sbc _ _ _ rd op => dpCycles rd op
  | .rsc _ _ _ rd op => dpCycles rd op
  | .tst _ _ _ op => compareCycles op
  | .teq _ _ _ op => compareCycles op
  | .cmp _ _ _ op => compareCycles op
  | .cmn _ _ _ op => compareCycles op
  | .orr _ _ _ rd op => dpCycles rd op
  | .mov _ _ _ rd op => dpCycles rd op
  | .bic _ _ _ rd op => dpCycles rd op
  | .mvn _ _ _ rd op => dpCycles rd op
  | .ldr _ _ _ _ rd _ => loadCycles rd
  | .str _ _ _ _ _ _ => 2
  | .ldrb _ _ _ _ rd _ => loadCycles rd
  | .strb _ _ _ _ _ _ => 2
  | .ldrt _ _ _ rd _ => loadCycles rd
  | .strt _ _ _ _ _ => 2
  | .ldrbt _ _ _ rd _ => loadCycles rd
  | .strbt _ _ _ _ _ => 2
  | .strh _ _ _ _ _ _ _ => 2
  | .ldrh _ _ _ _ _ rd _ => loadCycles rd
  | .ldrsb _ _ _ _ _ rd _ => loadCycles rd
  | .ldrsh _ _ _ _ _ rd _ => loadCycles rd
  | .ldmia _ _ _ _ list => ldmCycles list
  | .ldmib _ _ _ _ list => ldmCycles list
  | .ldmda _ _ _ _ list => ldmCycles list
  | .ldmdb _ _ _ _ list => ldmCycles list
  | .stmia _ _ _ _ list => stmCycles list
  | .stmib _ _ _ _ list => stmCycles list
  | .stmda _ _ _ _ list => stmCycles list
  | .stmdb _ _ _ _ list => stmCycles list
  | .swp _ _ _ _ => 4
  | .swpb _ _ _ _ => 4
  | .mrsCpsr _ _ => 1
  | .mrsSpsr _ _ => 1
  | .msrReg _ _ _ _ => 1
  | .msrImm _ _ _ _ _ => 1
  | .cdp _ _ _ _ _ _ _ => coprocessorCycles f 2
  | .ldc _ _ _ _ _ _ _ _ _ => coprocessorCycles f (2 + f.words)
  | .stc _ _ _ _ _ _ _ _ _ => coprocessorCycles f (2 + f.words)
  | .mcr _ _ _ _ _ _ _ => coprocessorCycles f 2
  | .mrc _ _ _ _ _ _ _ => coprocessorCycles f 3
  | .undefined _ => entryCycles

/-- The core cycles of an instruction (R631); the condition of an undefined word is not tested (60_exceptions.md
R552). -/
def coreCycles (f : CycleFacts) (i : Instr) : Nat :=
  match i with
  | .undefined _ => entryCycles
  | _ => if f.passed then passedCycles f i else 1

/-- The extra cycles of a read or fetch that misses (R632, 20_memory.md R146). -/
def missCycles (cfg : Config) : Nat := cfg.setupCycles + cfg.busSpeed * cfg.lineWords

/-- Cycles of the bus sequencer alone until it is back in `Normal`, at most `fuel` of them: the count. -/
def stallCycles : Nat → State → Nat
  | 0, _ => 0
  | fuel + 1, s =>
    match s.bus.wstate with
    | .normal => 0
    | .readingLineSetup => stallCycles fuel (setupTick s) + 1
    | .readingLine => stallCycles fuel (readingLineTick s) + 1
    | .writingWord => stallCycles fuel (writingTick s) + 1
    | .internalWrite => stallCycles fuel (internalTick s) + 1

end Sys2Proof.Machine
end

