-- ==== Sys2Proof/Safety.lean ====
section
/-! DEFINITION. What claims call a well-formed machine: the parameters the spec admits, the invariants every step keeps,
and where a run ends. -/

namespace Sys2Proof.Machine

/-- A power of two (spec 00_scope.md R9, 20_memory.md R122). -/
abbrev isPow2 (n : Nat) : Prop := n = 2 ^ n.log2

/-- The parameters the spec admits (00_scope.md R9; 20_memory.md R101, R102, R122, R149; 40_sequencer.md R245;
42_branch_swi.md R316; 48_coprocessor.md R514). `BUS_SPEED` is at least one cycle. -/
abbrev Config.wf (cfg : Config) : Prop :=
  isPow2 cfg.lineWords ∧ isPow2 cfg.cacheWords ∧ isPow2 cfg.ways ∧
  cfg.lineWords ≤ cfg.cacheWords ∧ cfg.ways ≤ cacheLines cfg ∧
  1 ≤ cfg.busSpeed ∧ 1 ≤ cfg.writeCycles ∧
  cfg.memLimit ≤ 2 ^ 31 ∧ cfg.memLimit % (4 * cfg.lineWords) = 0 ∧
  (∀ w ∈ cfg.periphMap, 2 ^ 31 ≤ w.base ∧ w.base + w.size ≤ 2 ^ 32) ∧
  (∀ k ∈ cfg.swiTable, k < cfg.swiTableSize) ∧ cfg.swiTable.Nodup ∧ cfg.cpSlots.Nodup ∧
  (∀ k ∈ cfg.cpPlugIns, k ∈ cfg.cpSlots) ∧ 40 ≤ cfg.maxInstLen

/-- Instruction addresses are multiples of 4 (10_state.md R61). -/
abbrev pcAligned (s : State) : Prop := s.pc.extractLsb' 0 2 = 0

/-- The pipe's addresses between instructions (40_sequencer.md R226, R236). -/
abbrev pipeAddresses (s : State) : Prop :=
  s.pipe.valid = true → s.pipe.ipAddr = s.pc + 4 ∧ s.pipe.fetchAddr = s.pc + 8

/-- What a fetch of memory's own contents gives (40_sequencer.md R227). -/
def fetchedAt (cfg : Config) (m : Memory) (a : Word) : Fetched :=
  if a.msb || cfg.memLimit ≤ a.toNat then { word := 0, ok := false } else { word := wordAt m a.toNat, ok := true }

/-- The two words already fetched are the ones memory holds (20_memory.md R162, 70_reset_and_hazards.md R620). -/
abbrev pipeContents (s : State) : Prop :=
  s.pipe.valid = true →
    s.pipe.next = fetchedAt s.cfg s.mem s.pc ∧ s.pipe.ip = fetchedAt s.cfg s.mem (s.pc + 4)

/-- Memory is in canonical form and lies below `MEM_LIMIT` (20_memory.md R101). -/
abbrev memoryForm (s : State) : Prop := Memory.wf s.mem ∧ Memory.below s.cfg.memLimit s.mem

/-- The cache's form (20_memory.md R122, R126, R127): slots rising and inside the table, whole lines of memory, no line
held twice, counters rising and below `WAYS`, zeros not listed. -/
abbrev cacheForm (cfg : Config) (c : Cache) : Prop :=
  c.lines.Pairwise (fun a b => a.1 < b.1) ∧
  (∀ x ∈ c.lines, x.1 < cacheLines cfg ∧ x.2.words.length = cfg.lineWords ∧
    slotBase cfg x.1 x.2 < cfg.memLimit) ∧
  c.lines.Pairwise (fun a b => slotBase cfg a.1 a.2 ≠ slotBase cfg b.1 b.2) ∧
  c.rr.Pairwise (fun a b => a.1 < b.1) ∧ (∀ x ∈ c.rr, x.1 < setCount cfg ∧ 0 < x.2 ∧ x.2 < cfg.ways)

/-- Every resident word is the word memory holds (20_memory.md R150, R158). -/
abbrev cacheCoherent (cfg : Config) (m : Memory) (c : Cache) : Prop :=
  ∀ x ∈ c.lines, x.2.words = wordsAt m (slotBase cfg x.1 x.2) cfg.lineWords

/-- The cache agrees with memory unless a flush is due, which the next cycle makes (20_memory.md R156, R158). -/
abbrev cacheSound (s : State) : Prop := s.flushRequest = true ∨ cacheCoherent s.cfg s.mem s.cache

/-- No multiply is in progress between instructions (44_multiply.md R384, 10_state.md R72). -/
abbrev mulIdle (s : State) : Prop :=
  s.mul.sumLo = 0 ∧ s.mul.sumHi = 0 ∧ s.mul.carryLo = 0 ∧ s.mul.carryHi = 0 ∧ s.mul.k ≤ 20

/-- The control-word pool (10_state.md R77, 40_sequencer.md R224): an array of `MAX_INST_LEN` control words, each of them free
or held by one queue, once. -/
abbrev poolForm (s : State) : Prop :=
  s.pool.words.length = s.cfg.maxInstLen ∧
  (s.pool.free ++ unexecuted s ++ s.seq.nextQ).Perm (List.range s.cfg.maxInstLen)

/-- The invariant of an instruction boundary. -/
abbrev Inv (s : State) : Prop :=
  Config.wf s.cfg ∧ pcAligned s ∧ pipeAddresses s ∧ pipeContents s ∧ memoryForm s ∧ cacheForm s.cfg s.cache ∧
  cacheSound s ∧ mulIdle s ∧ poolForm s

/-- The next step executes an instruction: no reset, no interrupt taken. -/
abbrev runsInstruction (s : State) : Prop :=
  (sampleInput s).1 = false ∧ boundaryInterrupt (beginStep (sampleInput s).2) = none

/-- `B .` with condition AL (42_branch_swi.md R313). -/
def branchToSelf : Word := 0xEAFFFFFE

/-- A run ends successfully before the step that would execute `B .` with AL (R313, 70_reset_and_hazards.md R604). -/
abbrev endsRun (s : State) : Prop :=
  runsInstruction s ∧ (beginStep (sampleInput s).2).pipe.next = { word := branchToSelf, ok := true }


/-! The vocabulary of the statements: what an instruction's result is, written apart from the meanings. -/

/-- `exec` answers a next state, and that state is as `post` says. -/
abbrev completes (i : Instr) (s : State) (post : State → Prop) : Prop := ∃ t, exec i s = .next t ∧ post t

/-- Every byte of memory reads as before. -/
abbrev sameBytes (s t : State) : Prop := ∀ a, readByte t.mem a = readByte s.mem a

/-- The SPSRs, the multiply unit, the interrupt latch, the flush request, the peripheral events and the parameters are as
before. Where one of them is written, `keepsSpecial { s with … } t` says that the others are as before. -/
abbrev keepsSpecial (s t : State) : Prop :=
  t.spsr = s.spsr ∧ t.mul = s.mul ∧ t.irq = s.irq ∧ t.flushRequest = s.flushRequest ∧ t.periphWrites = s.periphWrites ∧
  t.cfg = s.cfg

/-- The coprocessor port, what the plug-ins hold and the answers to come are as before. -/
abbrev keepsPort (s t : State) : Prop := t.cp = s.cp ∧ t.cpState = s.cpState ∧ t.cpAnswers = s.cpAnswers

/-- Register `i` of the current mode holds `v`; every other register of every bank is as before. Register 15 is none of
them. -/
abbrev regResult (s t : State) (i : Reg) (v : Word) : Prop :=
  ∀ q : Fin 30, t.regs[q] = if phys (modeBank s.cpsr.mode) i = some q then v else s.regs[q]

/-- The base register written, if it is: what the registers are before a load's own result. -/
def baseResult (s : State) (rn : Reg) (wb : Option Word) (q : Fin 30) : Word :=
  match wb with
  | some x => if phys (modeBank s.cpsr.mode) rn = some q then x else s.regs[q]
  | none => s.regs[q]

/-- An instruction that writes one register and, perhaps, the flags: everything it does. -/
abbrev registerEffect (s : State) (rd : Reg) (v : Word) (p : Psr) (t : State) : Prop :=
  regResult s t rd v ∧ t.cpsr = p ∧ t.pc = s.pc + 4 ∧ sameBytes s t ∧ keepsSpecial s t ∧ keepsPort s t

/-- N and Z of a result, with given C and V, when the flags are written. -/
def flagsOf (sf : Bool) (v : Word) (c ov : Bool) (p : Psr) : Psr :=
  if sf then { p with n := v.getLsbD 31, z := decide (v = 0), c := c, v := ov } else p

/-- A carry bit as a word. -/
def bitWord (b : Bool) : Word := if b then 1 else 0

/-- An arithmetic instruction with its result, carry and overflow as arithmetic on numbers (41_alu_shifter.md R280,
R281). -/
structure ArithForm where
  instr    : Instr
  result   : Word
  carry    : Bool
  overflow : Bool

/-- The six arithmetic instructions that write a register, on operands `a` and `b` and the carry `k`. -/
def arithForms (c : Cond) (sf : Bool) (rn rd : Reg) (op : Operand2) (a b : Word) (k : Bool) : List ArithForm :=
  [{ instr := .sub c sf rn rd op, result := a - b, carry := b.toNat ≤ a.toNat,
     overflow := (a - b).toInt != a.toInt - b.toInt },
   { instr := .rsb c sf rn rd op, result := b - a, carry := a.toNat ≤ b.toNat,
     overflow := (b - a).toInt != b.toInt - a.toInt },
   { instr := .add c sf rn rd op, result := a + b, carry := 2 ^ 32 ≤ a.toNat + b.toNat,
     overflow := (a + b).toInt != a.toInt + b.toInt },
   { instr := .adc c sf rn rd op, result := a + b + bitWord k, carry := 2 ^ 32 ≤ a.toNat + b.toNat + k.toNat,
     overflow := (a + b + bitWord k).toInt != a.toInt + b.toInt + k.toNat },
   { instr := .sbc c sf rn rd op, result := a - b - bitWord (!k), carry := b.toNat + (!k).toNat ≤ a.toNat,
     overflow := (a - b - bitWord (!k)).toInt != a.toInt - b.toInt - (!k).toNat },
   { instr := .rsc c sf rn rd op, result := b - a - bitWord (!k), carry := a.toNat + (!k).toNat ≤ b.toNat,
     overflow := (b - a - bitWord (!k)).toInt != b.toInt - a.toInt - (!k).toNat }]

/-- The four logical instructions with two operands that write a register, with their results (R280). -/
def logicForms (c : Cond) (sf : Bool) (rn rd : Reg) (op : Operand2) (a b : Word) : List (Instr × Word) :=
  [(.and c sf rn rd op, a &&& b), (.eor c sf rn rd op, a ^^^ b), (.orr c sf rn rd op, a ||| b),
   (.bic c sf rn rd op, a &&& ~~~b)]

/-- MOV and MVN with their results (R280). -/
def moveForms (c : Cond) (sf : Bool) (rd : Reg) (op : Operand2) (b : Word) : List (Instr × Word) :=
  [(.mov c sf 0 rd op, b), (.mvn c sf 0 rd op, ~~~b)]

/-- Every data-processing instruction that writes `rd`, with its result. -/
def writingForms (c : Cond) (sf : Bool) (rn rd : Reg) (op : Operand2) (s : State) : List (Instr × Word) :=
  (arithForms c sf rn rd op (readReg s rn) (operand2 op s).1 s.cpsr.c).map (fun f => (f.instr, f.result)) ++
    logicForms c sf rn rd op (readReg s rn) (operand2 op s).1 ++ moveForms c sf rd op (operand2 op s).1

/-- A load: its word's refusal, its address rule, its width, the value it brings from memory, and what it takes from the
word a peripheral answers (45_load_store.md; 20_memory.md R116, R152). -/
structure LoadForm where
  instr   : Instr
  refusal : Option Unpredictable
  address : Address
  width   : Width
  value   : Memory → Nat → Word
  lane    : Nat → Word → Word

/-- The half-word at an address (20_memory.md R105). -/
def halfAt (m : Memory) (a : Nat) : Half := readByte m (a + 1) ++ readByte m a

/-- The word a load of an unaligned word delivers (20_memory.md R110). -/
def rotatedWordAt (m : Memory) (a : Nat) : Word := (wordAt m (a / 4 * 4)).rotateRight (8 * (a % 4))

/-- The word, the half-word and the byte an address takes from an aligned word (20_memory.md R110, R116). -/
def rotatedLane (a : Nat) (x : Word) : Word := x.rotateRight (8 * (a % 4))

/-- See `rotatedLane`. -/
def halfLane (a : Nat) (x : Word) : Half := x.extractLsb' (16 * (a / 2 % 2)) 16

/-- See `rotatedLane`. -/
def byteLane (a : Nat) (x : Word) : Byte := x.extractLsb' (8 * (a % 4)) 8

/-- The seven loads (R415, R417, R426, R428, R432, R436, R437). -/
def loadForms (c : Cond) (ix : Indexing) (p u w : Bool) (rn rd : Reg) (off : Offset) (hoff : HalfOffset) (s : State) :
    List LoadForm :=
  [{ instr := .ldr c ix u rn rd off, refusal := restrictSingle false ix rn rd off,
     address := singleAddress ix u rn off s, width := .word, value := rotatedWordAt,
     lane := rotatedLane },
   { instr := .ldrt c u rn rd off, refusal := restrictSingle false .post rn rd off,
     address := singleAddress .post u rn off s, width := .word, value := rotatedWordAt,
     lane := rotatedLane },
   { instr := .ldrb c ix u rn rd off, refusal := restrictSingle true ix rn rd off,
     address := singleAddress ix u rn off s, width := .byte, value := fun m a => (readByte m a).setWidth 32,
     lane := fun a x => (byteLane a x).setWidth 32 },
   { instr := .ldrbt c u rn rd off, refusal := restrictSingle true .post rn rd off,
     address := singleAddress .post u rn off s, width := .byte, value := fun m a => (readByte m a).setWidth 32,
     lane := fun a x => (byteLane a x).setWidth 32 },
   { instr := .ldrh c p u w rn rd hoff, refusal := restrictHalf p w rn rd hoff,
     address := halfAddress p u w rn hoff s, width := .half, value := fun m a => (halfAt m a).setWidth 32,
     lane := fun a x => (halfLane a x).setWidth 32 },
   { instr := .ldrsb c p u w rn rd hoff, refusal := restrictHalf p w rn rd hoff,
     address := halfAddress p u w rn hoff s, width := .byte, value := fun m a => (readByte m a).signExtend 32,
     lane := fun a x => (byteLane a x).signExtend 32 },
   { instr := .ldrsh c p u w rn rd hoff, refusal := restrictHalf p w rn rd hoff,
     address := halfAddress p u w rn hoff s, width := .half, value := fun m a => (halfAt m a).signExtend 32,
     lane := fun a x => (halfLane a x).signExtend 32 }]

/-- A store: its word's refusal, its address rule and its width. -/
structure StoreForm where
  instr   : Instr
  refusal : Option Unpredictable
  address : Address
  width   : Width

/-- The five stores (R416, R419, R427, R429, R433). -/
def storeForms (c : Cond) (ix : Indexing) (p u w : Bool) (rn rd : Reg) (off : Offset) (hoff : HalfOffset) (s : State) :
    List StoreForm :=
  [{ instr := .str c ix u rn rd off, refusal := restrictSingle false ix rn rd off,
     address := singleAddress ix u rn off s, width := .word },
   { instr := .strt c u rn rd off, refusal := restrictSingle false .post rn rd off,
     address := singleAddress .post u rn off s, width := .word },
   { instr := .strb c ix u rn rd off, refusal := restrictSingle true ix rn rd off,
     address := singleAddress ix u rn off s, width := .byte },
   { instr := .strbt c u rn rd off, refusal := restrictSingle true .post rn rd off,
     address := singleAddress .post u rn off s, width := .byte },
   { instr := .strh c p u w rn rd hoff, refusal := restrictHalf p w rn rd hoff,
     address := halfAddress p u w rn hoff s, width := .half }]

/-- The value a store of a register writes (R416, R420). -/
def storedWord (s : State) (i : Reg) : Word :=
  if i = 15 then (match s.cfg.pcStoreOffset with | .eight => s.pc + 8 | .twelve => s.pc + 12) else readReg s i

/-- Memory holds the bytes of `d` at a store's address and every other byte is as before. -/
abbrev storedBytes (s t : State) (w : Width) (a d : Word) : Prop :=
  (∀ j, j < w.bytes → readByte t.mem (storeStart w a + j) = byteOf d j) ∧
  (∀ x, storeTouches w a x = false → readByte t.mem x = readByte s.mem x)

/-- The event of a word written to peripheral space (20_memory.md R111, R118): bits 1:0 of the address cleared. -/
def wordEvent (a v : Word) : PeriphWrite := { addr := a &&& 0xFFFFFFFC#32, data := v, width := .word }

/-- The four LDMs with their addressing variants (46_block_transfer.md R460). -/
def ldmForms (c : Cond) (sf w : Bool) (rn : Reg) (list : BitVec 16) : List (Instr × BlockMode) :=
  [(.ldmia c sf w rn list, .ia), (.ldmib c sf w rn list, .ib), (.ldmda c sf w rn list, .da),
   (.ldmdb c sf w rn list, .db)]

/-- The four STMs with their addressing variants (R461). -/
def stmForms (c : Cond) (sf w : Bool) (rn : Reg) (list : BitVec 16) : List (Instr × BlockMode) :=
  [(.stmia c sf w rn list, .ia), (.stmib c sf w rn list, .ib), (.stmda c sf w rn list, .da),
   (.stmdb c sf w rn list, .db)]

/-- The number of listed registers below `i`: the place of `i` in a block transfer (R463). -/
def listRank (list : BitVec 16) (i : Reg) : Nat :=
  ((List.finRange 16).filter fun j => decide (j < i) && list.getLsbD j.val).length

/-- The number of listed registers (R463). -/
def popcount (list : BitVec 16) : Nat := ((List.range 16).filter (list.getLsbD ·)).length

/-- The first address of a block transfer, from the table of R463. -/
def tableStart (m : BlockMode) (base : Word) (n : Nat) : Word :=
  match m with
  | .ia => base
  | .ib => base + 4
  | .da => base - BitVec.ofNat 32 (4 * n) + 4
  | .db => base - BitVec.ofNat 32 (4 * n)

/-- The base after write-back, from the table of R463. -/
def tableFinal (m : BlockMode) (base : Word) (n : Nat) : Word :=
  match m with
  | .ia => base + BitVec.ofNat 32 (4 * n)
  | .ib => base + BitVec.ofNat 32 (4 * n)
  | .da => base - BitVec.ofNat 32 (4 * n)
  | .db => base - BitVec.ofNat 32 (4 * n)

/-- The address of the word of listed register number `k` (R463). -/
def blockWord (m : BlockMode) (rn : Reg) (list : BitVec 16) (s : State) (k : Nat) : Word :=
  tableStart m (readReg s rn) (popcount list) + BitVec.ofNat 32 (4 * k)

/-- The bank a block transfer's registers belong to (R466). -/
def blockBank (s : State) (user : Bool) : Bank := if user then .usr else modeBank s.cpsr.mode

/-- An address in external memory. -/
abbrev inMemory (cfg : Config) (a : Word) : Prop := a.toNat < 2 ^ 31 ∧ a.toNat < cfg.memLimit

/-- The condition an instruction carries; an undefined word's is not tested (60_exceptions.md R552). -/
def Instr.cond : Instr → Option Cond
  | .b c _ => some c
  | .bl c _ => some c
  | .swi c _ => some c
  | .mul c _ _ _ _ _ => some c
  | .mla c _ _ _ _ _ => some c
  | .umull c _ _ _ _ _ => some c
  | .umlal c _ _ _ _ _ => some c
  | .smull c _ _ _ _ _ => some c
  | .smlal c _ _ _ _ _ => some c
  | .and c _ _ _ _ => some c
  | .eor c _ _ _ _ => some c
  | .sub c _ _ _ _ => some c
  | .rsb c _ _ _ _ => some c
  | .add c _ _ _ _ => some c
  | .adc c _ _ _ _ => some c
  | .sbc c _ _ _ _ => some c
  | .rsc c _ _ _ _ => some c
  | .tst c _ _ _ => some c
  | .teq c _ _ _ => some c
  | .cmp c _ _ _ => some c
  | .cmn c _ _ _ => some c
  | .orr c _ _ _ _ => some c
  | .mov c _ _ _ _ => some c
  | .bic c _ _ _ _ => some c
  | .mvn c _ _ _ _ => some c
  | .ldr c _ _ _ _ _ => some c
  | .str c _ _ _ _ _ => some c
  | .ldrb c _ _ _ _ _ => some c
  | .strb c _ _ _ _ _ => some c
  | .ldrt c _ _ _ _ => some c
  | .strt c _ _ _ _ => some c
  | .ldrbt c _ _ _ _ => some c
  | .strbt c _ _ _ _ => some c
  | .strh c _ _ _ _ _ _ => some c
  | .ldrh c _ _ _ _ _ _ => some c
  | .ldrsb c _ _ _ _ _ _ => some c
  | .ldrsh c _ _ _ _ _ _ => some c
  | .ldmia c _ _ _ _ => some c
  | .ldmib c _ _ _ _ => some c
  | .ldmda c _ _ _ _ => some c
  | .ldmdb c _ _ _ _ => some c
  | .stmia c _ _ _ _ => some c
  | .stmib c _ _ _ _ => some c
  | .stmda c _ _ _ _ => some c
  | .stmdb c _ _ _ _ => some c
  | .swp c _ _ _ => some c
  | .swpb c _ _ _ => some c
  | .mrsCpsr c _ => some c
  | .mrsSpsr c _ => some c
  | .msrReg c _ _ _ => some c
  | .msrImm c _ _ _ _ => some c
  | .cdp c _ _ _ _ _ _ => some c
  | .ldc c _ _ _ _ _ _ _ _ => some c
  | .stc c _ _ _ _ _ _ _ _ => some c
  | .mcr c _ _ _ _ _ _ => some c
  | .mrc c _ _ _ _ _ _ => some c
  | .undefined _ => none

/-- The exceptions that are entered with `Enter` (60_exceptions.md R540). -/
abbrev isEntry (e : Exc) : Prop := e ≠ .reset

/-- The base of a coprocessor transfer plus or minus its offset of words (48_coprocessor.md R526). -/
def cpMoved (u : Bool) (rn : Reg) (imm8 : Byte) (s : State) : Word :=
  if u then readReg s rn + BitVec.ofNat 32 (4 * imm8.toNat) else readReg s rn - BitVec.ofNat 32 (4 * imm8.toNat)

/-- The address of a coprocessor transfer's first word (R526): indexed before or after. -/
def cpStart (p u : Bool) (rn : Reg) (imm8 : Byte) (s : State) : Word :=
  if p then cpMoved u rn imm8 s else readReg s rn

/-- The five coprocessor instructions of one slot, with their refusals (48_coprocessor.md R510 to R527). -/
def cpForms (c : Cond) (op1 crn crd crm : BitVec 4) (o1 op2 : BitVec 3) (rd rn : Reg) (cp : Fin 16) (p u n w : Bool)
    (imm8 : Byte) : List (Instr × Option Unpredictable) :=
  [(.cdp c op1 crn crd cp op2 crm, none), (.mcr c o1 crn rd cp op2 crm, restrictMcr rd),
   (.mrc c o1 crn rd cp op2 crm, none), (.ldc c p u n w rn crd cp imm8, restrictCpTransfer p w rn),
   (.stc c p u n w rn crd cp imm8, restrictCpTransfer p w rn)]

/-- What the plug-ins hold and the answers to come are those of `u`, the state a handshake ends in that is not accepted (log
entry 6); what R512 calls coprocessor state is as before. -/
abbrev exchanged (u s t : State) : Prop :=
  t.cpState = u.cpState ∧ t.cpAnswers = u.cpAnswers ∧ ∀ j : Fin 16, t.cpState[j].regs = s.cpState[j].regs

/-- The lines the core sees at each word of an LDC or STC, given what it drives with each (`none` where the word comes from
the coprocessor), and the state after them (48_coprocessor.md R526, R527). -/
def transferLines (cp : Fin 16) : List (Option Word) → State → List CpLines × State
  | [], s => ([], s)
  | v :: rest, s =>
    let u := look cp s
    let q := transferLines cp rest (moveWord cp v u)
    (u.cp.lines :: q.1, q.2)

/-- The next `n` looks at a slot bring no free value. -/
abbrev settled (cp : Fin 16) (n : Nat) (s : State) : Prop := plugInGiven s.cfg cp = true ∨ n ≤ s.cpAnswers[cp].length

/-- `last` comes with none of these words. -/
abbrev goesOn (cp : Fin 16) (vs : List (Option Word)) (s : State) : Prop :=
  settled cp vs.length s ∧ ∀ x ∈ (transferLines cp vs s).1, x.last = false

/-- `last` comes with one of these words: the sixteenth at the latest (R525). -/
abbrev endsWithin (cp : Fin 16) (vs : List (Option Word)) (s : State) : Prop :=
  vs.length = 16 ∨ (settled cp vs.length s ∧ ∃ x ∈ (transferLines cp vs s).1, x.last = true)

/-- These words are one whole transfer: `last` comes with the final one and not before. Where the lines are free values
there is nothing to say. -/
abbrev wholeTransfer (cp : Fin 16) (vs : List (Option Word)) (s : State) : Prop :=
  settled cp vs.length s → ∃ before x, (transferLines cp vs s).1 = before ++ [x] ∧ x.last = true ∧
    ∀ y ∈ before, y.last = false

/-- These words are what memory holds at the addresses in memory; a peripheral's word may be any. -/
abbrev wordsRead (m : Memory) (word : Nat → Word) (vs : List Word) : Prop :=
  ∀ k, k < vs.length → (word k).msb = false → vs[k]? = some (wordAt m ((word k).toNat / 4 * 4))

/-- The interrupt levels of a step that is no reset and the samples left after it (60_exceptions.md R561, R576): the next
sample, or the levels as they stand (log entry 9). -/
abbrev sampled (s : State) (l : Lines) (rest : List Input) : Prop :=
  (s.inputs = [] ∧ l = s.lines ∧ rest = []) ∨
  ∃ x, s.inputs = x :: rest ∧ x.reset = false ∧ l = { nIRQ := x.nIRQ, nFIQ := x.nFIQ }

/-- The next queue holds the recipe of the decoded word, and every control word is free or queued (40_sequencer.md R222,
R224, R247). -/
abbrev queuesReady (s : State) : Prop :=
  poolForm s ∧ queueWords s s.seq.nextQ = recipe s.cfg (decode s.pipe.next.word)

/-- The two levels at an instruction boundary of the cycle level with nothing in the way: the queue run out, the bus
idle, no input, no flush due, no request, nothing to take. -/
abbrev quietBoundary (s : State) : Prop :=
  exhausted s = true ∧ s.bus.wstate = .normal ∧ s.inputs = [] ∧ s.flushRequest = false ∧ s.cp.request = false ∧
  s.pipe.valid = true ∧ queuesReady s ∧ interruptToTake (latchInterrupts s.lines s) = none

end Sys2Proof.Machine
end

