-- ==== Sys2Proof/Certificates/Slice0/Obligations.lean ====
section
/-! DEFINITION. The statements for the provers. Each docstring names the rules of spec/ it rests on. -/

open Sys2Proof Sys2Proof.Machine

/-! Encoding -/

/-- Words written out from the format tables decode to their instructions (30_encoding.md R175 to R187). -/
def Obligations.DecodeSampleWords : Prop :=
  decode 0xEA000002 = .b .al 2 ∧
  decode 0xEF000010 = .swi .al 0x10 ∧
  decode 0xE0203291 = .mla .al false 0 3 2 1 ∧
  decode 0xE0910002 = .add .al true 1 0 (.immShift 2 .lsl 0) ∧
  decode 0xE1A00211 = .mov .al false 0 0 (.regShift 1 .lsl 2) ∧
  decode 0xE5A10004 = .str .al .pre true 1 0 (.imm 4) ∧
  decode 0xE1D100F0 = .ldrsh .al true true false 1 0 (.imm 0) ∧
  decode 0xE92D4001 = .stmdb .al false true 13 0x4001 ∧
  decode 0xE1420091 = .swpb .al 2 0 1 ∧
  decode 0xE321F0D2 = .msrImm .al .cpsr 0b0001 0 0xD2 ∧
  decode 0xEE100F10 = .mrc .al 0 0 0 15 0 0 ∧
  decode 0xE12FFF10 = .undefined 0xE12FFF10

/-- Decoding the encoding of a well-formed instruction gives it back: no operand bit is dropped (30_encoding.md R170 to
R198). -/
def Obligations.DecodeOfEncode : Prop :=
  ∀ i : Instr, i.wellFormed = true → decode (encode i) = i

/-- Every word is the encoding of the instruction it decodes to, so no two words mean one instruction (30_encoding.md
R170 to R198). -/
def Obligations.EncodeOfDecode : Prop :=
  ∀ w : Word, encode (decode w) = w

/-- The class matchers of R173 and the opcode table give every word the same row (30_encoding.md R202). -/
def Obligations.DecodeAgreesWithOpcodeTable : Prop :=
  ∀ w : Word, (decode w).mnemonic = tableMnemonic w

/-- The condition of an instruction is bits 31:28 of its word, and a word with `cond = 1111` decodes to the undefined
instruction, whatever its other bits, which takes the undefined trap (30_encoding.md R171). -/
def Obligations.NvWordsAreUndefined : Prop :=
  ∀ w : Word,
    (∀ c, Instr.cond (decode w) = some c → w.extractLsb' 28 4 = BitVec.ofNat 4 c.code) ∧
    (w.extractLsb' 28 4 = 0b1111#4 → decode w = .undefined w ∧
      ∀ s : State, completes (decode w) s fun t => t.cpsr.mode = .und ∧ t.pc = 0x04)

/-! The step -/

/-- The instruction at the program counter runs: with the pipe filled, `step` is `exec` of the instruction memory holds
at `pc`, on the state with the levels sampled, a due flush made and the interrupt latch run; registers, status, memory
and pc are then as before (40_sequencer.md R227, R229, R231; 20_memory.md R156, R162). Two things are the model's choice:
that the flush comes before anything else of the step (log entry 33), and that the word of a poisoned fetch, which the
premise `pipeContents` fixes for a pipe address outside memory, is 0 (log entry 28). -/
def Obligations.StepRunsTheDecodedInstruction : Prop :=
  ∀ (s : State) (i : Instr), s.pipe.valid = true → pipeContents s → runsInstruction s → inMemory s.cfg s.pc →
    decode (wordAt s.mem s.pc.toNat) = i → i.wellFormed = true →
    step s = exec i (makeCurrent (beginStep (sampleInput s).2)) ∧
    (beginStep (sampleInput s).2).regs = s.regs ∧ (beginStep (sampleInput s).2).pc = s.pc ∧
    (beginStep (sampleInput s).2).cpsr = s.cpsr ∧ (beginStep (sampleInput s).2).spsr = s.spsr ∧
    (beginStep (sampleInput s).2).mem = s.mem ∧ (beginStep (sampleInput s).2).pipe = s.pipe

/-- With the pipe empty, as after reset, the step first refills it: what then executes is the word memory holds at `pc`,
and a fetch outside memory is poisoned (40_sequencer.md R227, R236, R244; 70_reset_and_hazards.md R602). Two things are the
model's choice: that a due flush comes before the refill, which then sees no stale line (log entry 33), and that the word
of a poisoned fetch is 0 (log entry 28: R227 gives it no value). -/
def Obligations.EmptyPipeRefillsFromMemory : Prop :=
  ∀ s : State, Inv s → s.pipe.valid = false →
    (beginStep s).pipe.valid = true ∧ (beginStep s).pipe.next = fetchedAt s.cfg s.mem s.pc ∧
    (beginStep s).pipe.ip = fetchedAt s.cfg s.mem (s.pc + 4) ∧ (beginStep s).pc = s.pc

/-- Executing a word fetched from peripheral space or from outside memory stops (20_memory.md R103, 40_sequencer.md
R227). The premise `pipeContents` fixes the poisoned word at 0, which is the model's choice (log entry 28). -/
def Obligations.FetchOutsideMemoryStops : Prop :=
  ∀ s : State, s.pipe.valid = true → pipeContents s → runsInstruction s →
    (2 ^ 31 ≤ s.pc.toNat ∨ s.cfg.memLimit ≤ s.pc.toNat) → step s = .fault .fetchedOutsideMemory

/-! Interrupts -/

/-- The interrupt latch: a falling edge is recorded only while its mask bit is clear, a pending flag stays, the previous
levels become the present ones, nothing else changes. At a boundary that is no reset and in no coprocessor handshake, an
FIQ that is pending and not masked is taken, else an IRQ that is: the mode, the vector, the return address
`nextAddr + 4`, the masks, the old CPSR saved, the flag taken cleared and the other kept, every other register and SPSR
as before; else the step runs an instruction (60_exceptions.md R556, R558, R560 to R563; 40_sequencer.md R229, R231,
R240). That a step takes one sample of the levels is the model's choice (log entry 9). -/
def Obligations.InterruptsAreTaken : Prop :=
  (∀ (l : Lines) (s : State), ∃ q : IrqLatch, latchInterrupts l s = { s with irq := q } ∧
    q.prevNIRQ = l.nIRQ ∧ q.prevNFIQ = l.nFIQ ∧
    (q.irqPending = true ↔
      s.irq.irqPending = true ∨ (s.irq.prevNIRQ = true ∧ l.nIRQ = false ∧ s.cpsr.i = false)) ∧
    (q.fiqPending = true ↔
      s.irq.fiqPending = true ∨ (s.irq.prevNFIQ = true ∧ l.nFIQ = false ∧ s.cpsr.f = false))) ∧
  ∀ (s : State) (l : Lines) (rest : List Input), sampled s l rest →
    let fiq : Bool := s.irq.fiqPending || (s.irq.prevNFIQ && !l.nFIQ && !s.cpsr.f)
    let irq : Bool := s.irq.irqPending || (s.irq.prevNIRQ && !l.nIRQ && !s.cpsr.i)
    let fiqNow : Bool := fiq && !s.cpsr.f
    let irqNow : Bool := irq && !s.cpsr.i
    let post (b : Bank) (p : Psr) (vec : Word) (irqAfter fiqAfter : Bool) (t : State) : Prop :=
      t.cpsr = p ∧ t.pc = vec ∧ readReg t 14 = s.pc + 4 ∧ readSpsr t = some (psrWord s.cpsr) ∧
      t.irq = { prevNIRQ := l.nIRQ, prevNFIQ := l.nFIQ, irqPending := irqAfter, fiqPending := fiqAfter } ∧
      (∀ q : Fin 30, phys b 14 ≠ some q → t.regs[q] = s.regs[q]) ∧
      (∀ k : Fin 5, spsrIndex b ≠ some k → t.spsr[k] = s.spsr[k]) ∧
      t.inputs = rest ∧ t.lines = l ∧ sameBytes s t ∧ t.mul = s.mul ∧ t.periphWrites = s.periphWrites ∧
      t.cfg = s.cfg ∧ keepsPort s t
    (s.cp.request = false → fiqNow = true →
      ∃ t, step s = .next t ∧ post .fiq { s.cpsr with mode := .fiq, i := true, f := true } 0x1C irq false t) ∧
    (s.cp.request = false → fiqNow = false → irqNow = true →
      ∃ t, step s = .next t ∧ post .irq { s.cpsr with mode := .irq, i := true } 0x18 false fiq t) ∧
    ((s.cp.request = true ∨ (fiqNow = false ∧ irqNow = false)) → runsInstruction s)

/-! Exceptions -/

/-- Taking an exception: the old CPSR goes to the SPSR of the mode entered, the return address to its R14; I is set, F
by FIQ; the flags stay; every other register and SPSR stays; the pc is the vector (60_exceptions.md R540, R550, R551,
R559). -/
def Obligations.ExceptionEntry : Prop :=
  ∀ (e : Exc) (lr : Word) (s t : State), isEntry e → t = enterException e lr s →
    t.cpsr = { s.cpsr with mode := excMode e, i := true, f := decide (e = .fiq) || s.cpsr.f } ∧
    readSpsr t = some (psrWord s.cpsr) ∧ readReg t 14 = lr ∧ t.pc = vector e ∧
    (∀ q : Fin 30, phys (modeBank (excMode e)) 14 ≠ some q → t.regs[q] = s.regs[q]) ∧
    (∀ k : Fin 5, spsrIndex (modeBank (excMode e)) ≠ some k → t.spsr[k] = s.spsr[k]) ∧
    sameBytes s t ∧ keepsSpecial { s with spsr := t.spsr } t ∧ keepsPort s t

/-- Entering an exception and restoring the CPSR in its handler gives the old CPSR back, with every register but R14 of
the mode entered (10_state.md R46, R56; 60_exceptions.md R557). -/
def Obligations.ExceptionRoundTrip : Prop :=
  ∀ (e : Exc) (lr : Word) (s : State), isEntry e →
    ∃ u, restoreCpsr (enterException e lr s) = .next u ∧ u.cpsr = s.cpsr ∧
      (∀ q : Fin 30, phys (modeBank (excMode e)) 14 ≠ some q → u.regs[q] = s.regs[q])

/-- A restore of the CPSR stops in User and System mode, on a T bit and on an invalid mode; else the CPSR is the SPSR's
fields (10_state.md R31, R50, R55, R56). -/
def Obligations.RestoreCpsrCases : Prop :=
  ∀ s : State,
    ((s.cpsr.mode = .usr ∨ s.cpsr.mode = .sys) → restoreCpsr s = .fault .noSpsr) ∧
    (∀ v, readSpsr s = some v → v.getLsbD 5 = true → restoreCpsr s = .fault .thumbState) ∧
    (∀ v, readSpsr s = some v → v.getLsbD 5 = false → modeOfCode (v.extractLsb' 0 5) = none →
      restoreCpsr s = .fault .invalidMode) ∧
    (∀ v m, readSpsr s = some v → v.getLsbD 5 = false → modeOfCode (v.extractLsb' 0 5) = some m →
      ∃ t, restoreCpsr s = .next t ∧ psrWord t.cpsr = v &&& 0xF00000FF#32 ∧ t.cpsr.mode = m ∧
        t = { s with cpsr := t.cpsr })

/-- The synchronous traps: an undefined word, whatever the flags, and an SWI with no callback, each with the return
address `cur + 4`, the old CPSR saved, and no other effect (60_exceptions.md R552, R553; 42_branch_swi.md R319;
30_encoding.md R196). -/
def Obligations.SynchronousTraps : Prop :=
  ∀ s : State,
    let post (m : Mode) (b : Bank) (vec : Word) (t : State) : Prop :=
      t.cpsr = { s.cpsr with mode := m, i := true } ∧ t.pc = vec ∧ readReg t 14 = s.pc + 4 ∧
      readSpsr t = some (psrWord s.cpsr) ∧ (∀ q : Fin 30, phys b 14 ≠ some q → t.regs[q] = s.regs[q]) ∧
      (∀ k : Fin 5, spsrIndex b ≠ some k → t.spsr[k] = s.spsr[k]) ∧ sameBytes s t ∧
      keepsSpecial { s with spsr := t.spsr } t ∧ keepsPort s t
    (∀ w : Word, completes (.undefined w) s (post .und .und 0x04)) ∧
    (∀ (c : Cond) (comment : BitVec 24), condPassed c s.cpsr = true →
      swiRegistered s.cfg (comment.toNat % 2 ^ 23) = false → completes (.swi c comment) s (post .svc .svc 0x08))

/-- SWI with a callback: R0 takes its result, memory its writes, the flush is asked for, nothing else changes
(42_branch_swi.md R317, R318; 20_memory.md R156). A write into the prefetch window stops: of one that changes a byte there
the spec says so (70_reset_and_hazards.md R620); that one which writes the value standing there stops too is the model's
choice (log entry 10). What the callback does is a parameter of the model (log entry 5). -/
def Obligations.SwiWithCallback : Prop :=
  ∀ (c : Cond) (comment : BitVec 24) (s : State), condPassed c s.cpsr = true →
    swiRegistered s.cfg (comment.toNat % 2 ^ 23) = true →
    let a := (nextCallback (comment.toNat % 2 ^ 23) s).1
    ((∃ x ∈ a.writes, x.1 < s.cfg.memLimit ∧ inPrefetchWindow s.pc x.1 = true) →
      exec (.swi c comment) s = .fault .prefetchWindow) ∧
    ((∀ x ∈ a.writes, x.1 < s.cfg.memLimit → inPrefetchWindow s.pc x.1 = false) →
      completes (.swi c comment) s fun t =>
        regResult s t 0 a.result ∧ t.flushRequest = true ∧ t.cpsr = s.cpsr ∧ t.pc = s.pc + 4 ∧
        keepsSpecial { s with flushRequest := true } t ∧ keepsPort s t ∧
        (∀ x, (∀ y ∈ a.writes, x < s.cfg.memLimit → y.1 ≠ x) → readByte t.mem x = readByte s.mem x) ∧
        (∀ pre x v post, a.writes = pre ++ (x, v) :: post → x < s.cfg.memLimit → (∀ y ∈ post, y.1 ≠ x) →
          Memory.wf s.mem → readByte t.mem x = v))

/-- A reset line in a step resets the machine: Supervisor mode, both masks set, pc 0, latches, multiply unit, bus sequencer
and cache cleared, the seed recipe queued and every other control word free (10_state.md R80, 70_reset_and_hazards.md
R600, R601). The model's choices, which these rules do not say: at the instruction level the reset is taken at the
boundary, in place of the instruction (log entry 9), and memory, the parameters, the plug-ins, the events and the
samples to come are kept (log entry 19). The registers and SPSRs then hold the values of log entry 1, of which this
says nothing. -/
def Obligations.ResetLine : Prop :=
  ∀ (s : State) (x : Input) (rest : List Input), s.inputs = x :: rest → x.reset = true →
    ∃ t, step s = .next t ∧ t.pc = 0 ∧ t.cpsr.mode = .svc ∧ t.cpsr.i = true ∧ t.cpsr.f = true ∧
      t.irq = { prevNIRQ := true, prevNFIQ := true, irqPending := false, fiqPending := false } ∧
      t.cache = { lines := [], rr := [] } ∧ t.pipe.valid = false ∧ t.pipe.fetchAddr = 0 ∧ t.flushRequest = false ∧
      t.mul.sum = 0 ∧ t.mul.carry = 0 ∧ t.mul.bc = false ∧ t.mul.mr = 0 ∧ t.mul.k = 0 ∧ t.mul.md = 0 ∧
      queueWords t t.seq.curQ = [refill1Word, ipipeWord] ∧ t.seq.idx = 0 ∧ t.seq.nextQ = [] ∧
      (40 ≤ s.cfg.maxInstLen → poolForm t) ∧ t.bus.wstate = .normal ∧ t.bus.penalty = 0 ∧ t.bus.fill = [] ∧
      t.mem = s.mem ∧ t.cfg = s.cfg ∧ t.cpState = s.cpState ∧ t.periphWrites = s.periphWrites ∧ t.inputs = rest

/-! Registers and status -/

/-- The banks (10_state.md R34, R40, R60): R0 to R7 are one register in every mode; R8 to R12 have an FIQ copy alone; R13 and
R14 one per bank, User and System sharing; distinct names are distinct registers; R15 is none of them and reads as
`cur + 8`. -/
def Obligations.BankedRegisters : Prop :=
  (∀ (b b' : Bank) (i : Reg), i.val < 8 → phys b i = phys b' i) ∧
  (∀ (b : Bank) (i : Reg), 8 ≤ i.val → i.val < 13 → b ≠ .fiq → phys b i = phys .usr i ∧ phys .fiq i ≠ phys .usr i) ∧
  (∀ (b b' : Bank) (i : Reg), 13 ≤ i.val → i.val < 15 → (phys b i = phys b' i ↔ b = b')) ∧
  (∀ (b b' : Bank) (i j : Reg), i.val < 15 → phys b i = phys b' j → i = j) ∧
  modeBank .sys = modeBank .usr ∧ (∀ b, phys b 15 = none) ∧ (∀ s : State, readReg s 15 = s.pc + 8)

/-- The hardware's live and shadow banks: the swap of a mode switch keeps every physical register (10_state.md R43 to
R46). -/
def Obligations.BankSwapKeepsRegisters : Prop :=
  ∀ (old new : Mode) (f : BankedFile), physOf new (swapBanks old new f) = physOf old f

/-- A status register as a word: fields where R50 puts them, reserved bits and T zero, and back again; the seven mode
numbers are those of R30 and no other value is a mode (10_state.md R30, R31, R50). -/
def Obligations.StatusWordLayout : Prop :=
  (∀ p : Psr, (psrWord p).getLsbD 31 = p.n ∧ (psrWord p).getLsbD 30 = p.z ∧ (psrWord p).getLsbD 29 = p.c ∧
    (psrWord p).getLsbD 28 = p.v ∧ (psrWord p).getLsbD 7 = p.i ∧ (psrWord p).getLsbD 6 = p.f ∧
    (psrWord p).extractLsb' 0 5 = modeCode p.mode ∧ psrWord p &&& 0x0FFFFF20#32 = 0 ∧
    psrOfWord (psrWord p) p.mode = p) ∧
  modeCode .usr = 0x10 ∧ modeCode .fiq = 0x11 ∧ modeCode .irq = 0x12 ∧ modeCode .svc = 0x13 ∧ modeCode .abt = 0x17 ∧
  modeCode .und = 0x1B ∧ modeCode .sys = 0x1F ∧ (∀ (b : BitVec 5) (m : Mode), modeOfCode b = some m ↔ b = modeCode m)

/-- User mode is left through an exception alone, whatever the instruction (60_exceptions.md R571). -/
def Obligations.UserModeIsLeftByException : Prop :=
  ∀ (i : Instr) (s t : State), s.cpsr.mode = .usr → exec i s = .next t →
    t.cpsr.mode = .usr ∨
    ∃ e, isEntry e ∧ t.cpsr.mode = excMode e ∧ t.pc = vector e ∧ readSpsr t = some (psrWord s.cpsr) ∧
      t.cpsr.i = true

/-! Conditions, shifter, ALU -/

/-- The condition table (41_alu_shifter.md R260, R261). -/
def Obligations.ConditionTable : Prop :=
  ∀ p : Psr,
    (condPassed .eq p = true ↔ p.z = true) ∧ (condPassed .ne p = true ↔ p.z = false) ∧
    (condPassed .cs p = true ↔ p.c = true) ∧ (condPassed .cc p = true ↔ p.c = false) ∧
    (condPassed .mi p = true ↔ p.n = true) ∧ (condPassed .pl p = true ↔ p.n = false) ∧
    (condPassed .vs p = true ↔ p.v = true) ∧ (condPassed .vc p = true ↔ p.v = false) ∧
    (condPassed .hi p = true ↔ p.c = true ∧ p.z = false) ∧ (condPassed .ls p = true ↔ p.c = false ∨ p.z = true) ∧
    (condPassed .ge p = true ↔ p.n = p.v) ∧ (condPassed .lt p = true ↔ p.n ≠ p.v) ∧
    (condPassed .gt p = true ↔ p.z = false ∧ p.n = p.v) ∧ (condPassed .le p = true ↔ p.z = true ∨ p.n ≠ p.v) ∧
    condPassed .al p = true

/-- An instruction whose condition fails does nothing but advance: no register, flag, memory, exception
(40_sequencer.md R230, 41_alu_shifter.md R262). -/
def Obligations.FailedConditionOnlyAdvances : Prop :=
  ∀ (i : Instr) (c : Cond) (s : State), unpredictable i = none → Instr.cond i = some c → condPassed c s.cpsr = false →
    completes i s fun t =>
      t.regs = s.regs ∧ t.cpsr = s.cpsr ∧ t.pc = s.pc + 4 ∧ sameBytes s t ∧ keepsSpecial s t ∧ keepsPort s t ∧
      t.swiAnswers = s.swiAnswers

/-- A refused word is refused in every state, whatever its condition (00_scope.md R17, 41_alu_shifter.md R262;
93_implementation_defined.md 1.1). -/
def Obligations.RefusedWordsAreRefused : Prop :=
  ∀ (i : Instr) (why : Unpredictable) (s : State), unpredictable i = some why →
    exec i s = .refused (.unpredictable why)

/-- The boundary table of the shifter, which the spec marks as its own derivation from the rules of the four shifts
(41_alu_shifter.md R266 to R269, R274). -/
def Obligations.ShifterBoundaryTable : Prop :=
  ∀ (v : Word) (c : Bool),
    let fill : Word := if v.getLsbD 31 then 0xFFFFFFFF else 0
    (shift v .lsl 0 c = (v, c) ∧ shift v .lsl 31 c = (v <<< 31, v.getLsbD 1) ∧ shift v .lsl 32 c = (0, v.getLsbD 0) ∧
      shift v .lsl 33 c = (0, false) ∧ shift v .lsl 63 c = (0, false) ∧ shift v .lsl 64 c = (0, false)) ∧
    (shift v .lsr 0 c = (v, c) ∧ shift v .lsr 31 c = (v >>> 31, v.getLsbD 30) ∧ shift v .lsr 32 c = (0, v.getLsbD 31) ∧
      shift v .lsr 33 c = (0, false) ∧ shift v .lsr 63 c = (0, false) ∧ shift v .lsr 64 c = (0, false)) ∧
    (shift v .asr 0 c = (v, c) ∧ shift v .asr 31 c = (v.sshiftRight 31, v.getLsbD 30) ∧
      shift v .asr 32 c = (fill, v.getLsbD 31) ∧ shift v .asr 33 c = (fill, v.getLsbD 31) ∧
      shift v .asr 63 c = (fill, v.getLsbD 31) ∧ shift v .asr 64 c = (fill, v.getLsbD 31)) ∧
    (shift v .ror 0 c = (v, c) ∧ shift v .ror 31 c = (v.rotateRight 31, v.getLsbD 30) ∧
      shift v .ror 32 c = (v, v.getLsbD 31) ∧ shift v .ror 33 c = (v.rotateRight 1, v.getLsbD 0) ∧
      shift v .ror 63 c = (v.rotateRight 31, v.getLsbD 30) ∧ shift v .ror 64 c = (v, v.getLsbD 31))

/-- The shifter at every amount: the result is the logical, arithmetic or rotating shift, the carry of amount 0 the carry
in, else the last bit shifted out, 0 past the end of a logical shift (41_alu_shifter.md R266 to R270, 00_scope.md R11).
The operand forms: an immediate is its byte rotated right by twice the rotate field, its carry bit 31 unless the field is
0; an immediate shift by LSR or ASR of 0 means 32, of ROR 0 is RRX; a register-specified amount is the low byte of Rs
(41_alu_shifter.md R271, R272, R273; 30_encoding.md R188). -/
def Obligations.ShifterAtEveryAmount : Prop :=
  (∀ (v : Word) (n : Nat) (c : Bool),
    (shift v .lsl n c).1 = v <<< n ∧ (shift v .lsr n c).1 = v >>> n ∧ (shift v .asr n c).1 = v.sshiftRight n ∧
    (∀ k, k < 32 → (shift v .ror n c).1.getLsbD k = v.getLsbD ((k + n) % 32)) ∧
    (∀ k, k < 31 → (shift v .rrx n c).1.getLsbD k = v.getLsbD (k + 1)) ∧ (shift v .rrx n c).1.getLsbD 31 = c ∧
    (shift v .rrx n c).2 = v.getLsbD 0 ∧
    (n = 0 → (shift v .lsl n c).2 = c ∧ (shift v .lsr n c).2 = c ∧ (shift v .asr n c).2 = c ∧
      (shift v .ror n c).2 = c) ∧
    (1 ≤ n → n ≤ 32 → (shift v .lsl n c).2 = v.getLsbD (32 - n) ∧ (shift v .lsr n c).2 = v.getLsbD (n - 1) ∧
      (shift v .asr n c).2 = v.getLsbD (n - 1)) ∧
    (33 ≤ n → (shift v .lsl n c).2 = false ∧ (shift v .lsr n c).2 = false ∧ (shift v .asr n c).2 = v.getLsbD 31) ∧
    (1 ≤ n → (shift v .ror n c).2 = v.getLsbD ((n - 1) % 32))) ∧
  (∀ (s : State) (rm rs : Reg) (rot : BitVec 4) (imm8 : Byte) (k : BitVec 5),
    let x := readReg s rm
    let c := s.cpsr.c
    let n := (readReg s rs).toNat % 256
    let fill : Word := if x.getLsbD 31 then 0xFFFFFFFF else 0
    (∀ j, j < 32 → (operand2 (.imm rot imm8) s).1.getLsbD j = imm8.getLsbD ((j + 2 * rot.toNat) % 32)) ∧
    (operand2 (.imm rot imm8) s).2 = (if rot = 0 then c else (operand2 (.imm rot imm8) s).1.getLsbD 31) ∧
    operand2 (.immShift rm .lsl k) s = shift x .lsl k.toNat c ∧
    operand2 (.immShift rm .lsr 0) s = (0, x.getLsbD 31) ∧ operand2 (.immShift rm .asr 0) s = (fill, x.getLsbD 31) ∧
    operand2 (.immShift rm .ror 0) s = ((x >>> 1) ||| (if c then 0x80000000#32 else 0), x.getLsbD 0) ∧
    (k ≠ 0 → operand2 (.immShift rm .lsr k) s = shift x .lsr k.toNat c ∧
      operand2 (.immShift rm .asr k) s = shift x .asr k.toNat c ∧
      operand2 (.immShift rm .ror k) s = shift x .ror k.toNat c) ∧
    operand2 (.regShift rm .lsl rs) s = shift x .lsl n c ∧ operand2 (.regShift rm .lsr rs) s = shift x .lsr n c ∧
    operand2 (.regShift rm .asr rs) s = shift x .asr n c ∧ operand2 (.regShift rm .ror rs) s = shift x .ror n c)

/-- `AddWithCarry` as sums of numbers, and the carry of a subtraction, with or without a borrow coming in, is "not borrow"
(41_alu_shifter.md R281). -/
def Obligations.AddWithCarryOnNumbers : Prop :=
  ∀ (a b : Word) (k : Bool),
    (addWithCarry a b k).result = a + b + bitWord k ∧
    ((addWithCarry a b k).carry = true ↔ 2 ^ 32 ≤ a.toNat + b.toNat + k.toNat) ∧
    ((addWithCarry a b k).overflow = true ↔
      a.toInt + b.toInt + k.toNat < -2 ^ 31 ∨ 2 ^ 31 ≤ a.toInt + b.toInt + k.toNat) ∧
    ((addWithCarry a b k).overflow = true ↔ (addWithCarry a b k).result.toInt ≠ a.toInt + b.toInt + k.toNat) ∧
    (addWithCarry a (~~~b) k).result = a - b - bitWord (!k) ∧
    ((addWithCarry a (~~~b) k).carry = true ↔ b.toNat + (!k).toNat ≤ a.toNat)

/-! Data processing -/

/-- SUB, RSB, ADD, ADC, SBC, RSC with a destination other than R15: the result, the flags when `S = 1`, and nothing else
(41_alu_shifter.md R280 to R293; 43_data_processing.md R331, R342 to R347). -/
def Obligations.ArithmeticResults : Prop :=
  ∀ (c : Cond) (sf : Bool) (rn rd : Reg) (op : Operand2) (s : State), condPassed c s.cpsr = true →
    restrictDp rn rd op = none → rd ≠ 15 →
    ∀ f ∈ arithForms c sf rn rd op (readReg s rn) (operand2 op s).1 s.cpsr.c,
      completes f.instr s
        (registerEffect s rd f.result (flagsOf sf f.result f.carry f.overflow s.cpsr))

/-- AND, EOR, ORR, BIC, MOV, MVN with a destination other than R15: the result, N and Z, C from the shifter, V as before,
and nothing else (41_alu_shifter.md R291; 43_data_processing.md R331, R340, R341, R350, R353 to R355). -/
def Obligations.LogicalResults : Prop :=
  ∀ (c : Cond) (sf : Bool) (rn rd : Reg) (op : Operand2) (s : State), condPassed c s.cpsr = true → rd ≠ 15 →
    (restrictDp rn rd op = none →
      ∀ f ∈ logicForms c sf rn rd op (readReg s rn) (operand2 op s).1,
        completes f.1 s (registerEffect s rd f.2 (flagsOf sf f.2 (operand2 op s).2 s.cpsr.v s.cpsr))) ∧
    (restrictDpSbz 0 rd op = none →
      ∀ f ∈ moveForms c sf rd op (operand2 op s).1,
        completes f.1 s (registerEffect s rd f.2 (flagsOf sf f.2 (operand2 op s).2 s.cpsr.v s.cpsr)))

/-- TST, TEQ, CMP, CMN write the flags and nothing else (43_data_processing.md R335, R348, R349, R351, R352). -/
def Obligations.CompareResults : Prop :=
  ∀ (c : Cond) (rn : Reg) (op : Operand2) (s : State), condPassed c s.cpsr = true → restrictDpSbz 0 rn op = none →
    let a := readReg s rn
    let b := (operand2 op s).1
    let post (p : Psr) (t : State) : Prop :=
      t.regs = s.regs ∧ t.cpsr = p ∧ t.pc = s.pc + 4 ∧ sameBytes s t ∧ keepsSpecial s t ∧ keepsPort s t
    completes (.tst c rn 0 op) s (post (flagsOf true (a &&& b) (operand2 op s).2 s.cpsr.v s.cpsr)) ∧
    completes (.teq c rn 0 op) s (post (flagsOf true (a ^^^ b) (operand2 op s).2 s.cpsr.v s.cpsr)) ∧
    completes (.cmp c rn 0 op) s
      (post (flagsOf true (a - b) (b.toNat ≤ a.toNat) ((a - b).toInt != a.toInt - b.toInt) s.cpsr)) ∧
    completes (.cmn c rn 0 op) s
      (post (flagsOf true (a + b) (2 ^ 32 ≤ a.toNat + b.toNat) ((a + b).toInt != a.toInt + b.toInt) s.cpsr))

/-- A data-processing write of R15: a result that is not a multiple of 4 stops; with `S = 0` the pc takes it and the
CPSR stays; with `S = 1` the CPSR is restored from the SPSR, or the restore's stop is the instruction's; no general
register changes (43_data_processing.md R332, R334). -/
def Obligations.DataProcessingWritesPc : Prop :=
  ∀ (c : Cond) (sf : Bool) (rn : Reg) (op : Operand2) (s : State), condPassed c s.cpsr = true →
    isRegShift op = false →
    ∀ f ∈ writingForms c sf rn 15 op s,
      (f.2.toNat % 4 ≠ 0 → exec f.1 s = .fault .unalignedPc) ∧
      (f.2.toNat % 4 = 0 → sf = false →
        completes f.1 s fun t => t.pc = f.2 ∧ t.cpsr = s.cpsr ∧ t.regs = s.regs ∧ sameBytes s t ∧ keepsSpecial s t ∧
          keepsPort s t) ∧
      (f.2.toNat % 4 = 0 → sf = true →
        (∀ e, restoreCpsr s = .fault e → exec f.1 s = .fault e) ∧
        (∀ u, restoreCpsr s = .next u →
          completes f.1 s fun t => t.pc = f.2 ∧ t.cpsr = u.cpsr ∧ t.regs = s.regs ∧ sameBytes s t ∧
            keepsSpecial s t ∧ keepsPort s t))

/-! Branches -/

/-- B and BL: the target is `cur + 8` plus four times the signed offset; BL writes R14 with `cur + 4`; nothing else
changes (42_branch_swi.md R310, R311, R312). -/
def Obligations.BranchTargets : Prop :=
  ∀ (c : Cond) (imm24 : BitVec 24) (s : State), condPassed c s.cpsr = true →
    completes (.b c imm24) s (fun t =>
      t.pc = s.pc + 8 + BitVec.ofInt 32 (4 * imm24.toInt) ∧ t.regs = s.regs ∧ t.cpsr = s.cpsr ∧ sameBytes s t ∧
      keepsSpecial s t ∧ keepsPort s t) ∧
    completes (.bl c imm24) s (fun t =>
      t.pc = s.pc + 8 + BitVec.ofInt 32 (4 * imm24.toInt) ∧ regResult s t 14 (s.pc + 4) ∧ t.cpsr = s.cpsr ∧
      sameBytes s t ∧ keepsSpecial s t ∧ keepsPort s t)

/-! Multiply -/

/-- The carry-save adder: the carry is the majority, and sum plus twice the carry is the sum of the three
(44_multiply.md R371). -/
def Obligations.CarrySaveAdder : Prop :=
  ∀ a b cin : Word,
    (∀ k, (carrySaveAdd32 a b cin).2.getLsbD k =
      ((a.getLsbD k && b.getLsbD k) || (a.getLsbD k && cin.getLsbD k) || (b.getLsbD k && cin.getLsbD k))) ∧
    a.toNat + b.toNat + cin.toNat = (carrySaveAdd32 a b cin).1.toNat + 2 * (carrySaveAdd32 a b cin).2.toNat

/-- The Booth loop ends within five executions, four for a signed multiplier (44_multiply.md R379). -/
def Obligations.BoothTerminates : Prop :=
  ∀ (signed : Bool) (rm rs : Word),
    boothDone (boothRun signed rm rs) = true ∧ 1 ≤ boothCycles signed rs ∧ boothCycles signed rs ≤ 5 ∧
    (signed = true → boothCycles signed rs ≤ 4)

/-- The Booth engine computes the product: at termination sum plus carry is the 64-bit product, unsigned or signed
(44_multiply.md R380, which the spec marks as its own derivation). -/
def Obligations.BoothComputesTheProduct : Prop :=
  ∀ rm rs : Word,
    ((boothRun false rm rs).sum + (boothRun false rm rs).carry).toNat = rm.toNat * rs.toNat ∧
    ((boothRun true rm rs).sum + (boothRun true rm rs).carry).toInt = rm.toInt * rs.toInt

/-- MUL and MLA: the low word of the product and the accumulate; with `S = 1` N and Z, C left to a free bit, V kept;
nothing else changes and the multiply unit is idle (44_multiply.md R386 to R388). The statement holds for every value
of the free bit. -/
def Obligations.MultiplyResults : Prop :=
  ∀ (c : Cond) (sf : Bool) (rd rn rs rm : Reg) (s : State), condPassed c s.cpsr = true →
    let post (v : Word) (t : State) : Prop :=
      regResult s t rd v ∧ (∃ x : Bool, t.cpsr = flagsOf sf v x s.cpsr.v s.cpsr) ∧ t.pc = s.pc + 4 ∧ sameBytes s t ∧
      keepsSpecial { s with mul := t.mul } t ∧ keepsPort s t ∧ t.mul.sum = 0 ∧ t.mul.carry = 0
    (restrictMul rd 0 rs rm = none →
      completes (.mul c sf rd 0 rs rm) s (post (readReg s rm * readReg s rs))) ∧
    (restrictMla rd rn rs rm = none →
      completes (.mla c sf rd rn rs rm) s (post (readReg s rm * readReg s rs + readReg s rn)))

/-- The long multiplies: the 64-bit product, with the accumulator for UMLAL and SMLAL, modulo 2^64; with `S = 1` N and Z
of all 64 bits, C and V left to free bits (44_multiply.md R386, R389 to R392). The statement holds for every value of
the free bits. -/
def Obligations.LongMultiplyResults : Prop :=
  ∀ (c : Cond) (sf : Bool) (rdHi rdLo rs rm : Reg) (s : State), condPassed c s.cpsr = true →
    restrictLongMul rdHi rdLo rs rm = none →
    let acc : Int := ((readReg s rdHi).toNat * 2 ^ 32 + (readReg s rdLo).toNat : Nat)
    let u : Int := ((readReg s rm).toNat * (readReg s rs).toNat : Nat)
    let g : Int := (readReg s rm).toInt * (readReg s rs).toInt
    let post (p : Int) (t : State) : Prop :=
      (∀ q : Fin 30, t.regs[q] =
        if phys (modeBank s.cpsr.mode) rdLo = some q then BitVec.ofInt 32 p
        else if phys (modeBank s.cpsr.mode) rdHi = some q then BitVec.ofInt 32 (p / 2 ^ 32) else s.regs[q]) ∧
      (sf = false → t.cpsr = s.cpsr) ∧
      (sf = true → ∃ x y : Bool, t.cpsr =
        { s.cpsr with n := (BitVec.ofInt 64 p).getLsbD 63, z := decide (p % 2 ^ 64 = 0), c := x, v := y }) ∧
      t.pc = s.pc + 4 ∧ sameBytes s t ∧ keepsSpecial { s with mul := t.mul } t ∧ keepsPort s t ∧ t.mul.sum = 0 ∧
      t.mul.carry = 0
    completes (.umull c sf rdHi rdLo rs rm) s (post u) ∧ completes (.umlal c sf rdHi rdLo rs rm) s (post (u + acc)) ∧
    completes (.smull c sf rdHi rdLo rs rm) s (post g) ∧ completes (.smlal c sf rdHi rdLo rs rm) s (post (g + acc))

/-! Loads and stores -/

/-- The address rule of the single-word and byte transfers and of the half-word transfers, and their offsets: an immediate
as it stands, a register shifted by an immediate amount as in an operand form (ShifterAtEveryAmount says what that is), a
register as it stands (45_load_store.md R410, R430). -/
def Obligations.TransferAddresses : Prop :=
  ∀ (u p w : Bool) (rn : Reg) (off : Offset) (hoff : HalfOffset) (s : State),
    let base := readReg s rn
    let moved (o : Word) : Word := if u then base + o else base - o
    let o := offsetValue off s
    let h := halfOffsetValue hoff s
    (∀ x : BitVec 12, off = .imm x → o = BitVec.ofNat 32 x.toNat) ∧
    (∀ rm ty k, off = .reg rm ty k → o = (operand2 (.immShift rm ty k) s).1) ∧
    (∀ x : Byte, hoff = .imm x → h = BitVec.ofNat 32 x.toNat) ∧
    (∀ sbz rm, hoff = .reg sbz rm → h = readReg s rm) ∧
    ((singleAddress .offset u rn off s).addr = moved o ∧ (singleAddress .offset u rn off s).wb = none) ∧
    ((singleAddress .pre u rn off s).addr = moved o ∧ (singleAddress .pre u rn off s).wb = some (moved o)) ∧
    ((singleAddress .post u rn off s).addr = base ∧ (singleAddress .post u rn off s).wb = some (moved o)) ∧
    (halfAddress p u w rn hoff s).addr = (if p then moved h else base) ∧
    (halfAddress p u w rn hoff s).wb = (if p = false ∨ w = true then some (moved h) else none)

/-- The loads into a register other than R15, at every address the machine serves: the value memory holds, rotated,
zero- or sign-extended, or the same taken from the free word of a peripheral; the base as the addressing mode says;
nothing else (45_load_store.md R411, R415, R417, R426, R428, R432, R436, R437; 20_memory.md R110, R116, R152, R154). -/
def Obligations.LoadResults : Prop :=
  ∀ (c : Cond) (ix : Indexing) (p u w : Bool) (rn rd : Reg) (off : Offset) (hoff : HalfOffset) (s : State),
    condPassed c s.cpsr = true → Config.wf s.cfg → cacheCoherent s.cfg s.mem s.cache → rd ≠ 15 →
    ∀ f ∈ loadForms c ix p u w rn rd off hoff s, f.refusal = none → busFault s.cfg f.width f.address.addr = none →
      completes f.instr s fun t =>
        ∃ v : Word, (f.address.addr.msb = false → v = f.value s.mem f.address.addr.toNat) ∧
          (f.address.addr.msb = true → ∃ x : Word, v = f.lane f.address.addr.toNat x) ∧
          (∀ q : Fin 30, t.regs[q] =
            if phys (modeBank s.cpsr.mode) rd = some q then v else baseResult s rn f.address.wb q) ∧
          t.cpsr = s.cpsr ∧ t.pc = s.pc + 4 ∧ sameBytes s t ∧ keepsSpecial s t ∧ keepsPort s t

/-- LDR and LDRT into R15: an unaligned address stops; else the pc is the loaded word with bits 1:0 cleared, the CPSR is
as before (45_load_store.md R418). -/
def Obligations.LoadIntoPc : Prop :=
  ∀ (c : Cond) (ix : Indexing) (u : Bool) (rn : Reg) (off : Offset) (s : State),
    condPassed c s.cpsr = true → Config.wf s.cfg → cacheCoherent s.cfg s.mem s.cache →
    ∀ f ∈ [(Instr.ldr c ix u rn 15 off, ix), (Instr.ldrt c u rn 15 off, Indexing.post)],
      let a := singleAddress f.2 u rn off s
      unpredictable f.1 = none → busFault s.cfg .word a.addr = none →
      (a.addr.toNat % 4 ≠ 0 → exec f.1 s = .fault .unalignedLoadPc) ∧
      (a.addr.toNat % 4 = 0 → completes f.1 s fun t =>
        (a.addr.msb = false → t.pc = wordAt s.mem a.addr.toNat &&& 0xFFFFFFFC#32) ∧ t.pc.toNat % 4 = 0 ∧
        (∀ q : Fin 30, t.regs[q] = baseResult s rn a.wb q) ∧ t.cpsr = s.cpsr ∧ sameBytes s t ∧ keepsSpecial s t ∧
        keepsPort s t)

/-- The stores: in external memory the bytes of the value at the address the addressing mode gives, every other byte as
before; in peripheral space one more event, a word's with bits 1:0 of the address cleared, and no byte of memory; the base
as the addressing mode says; no flag, no other register (45_load_store.md R416, R419, R420, R427, R429, R433;
20_memory.md R111, R115, R118, R153). What an event records and that it does nothing else is the model's choice (log
entry 7). -/
def Obligations.StoreResults : Prop :=
  ∀ (c : Cond) (ix : Indexing) (p u w : Bool) (rn rd : Reg) (off : Offset) (hoff : HalfOffset) (s : State),
    condPassed c s.cpsr = true → Memory.wf s.mem →
    ∀ f ∈ storeForms c ix p u w rn rd off hoff s, f.refusal = none →
      storeFault s.cfg s.pc f.width f.address.addr = none →
      completes f.instr s fun t =>
        (f.address.addr.msb = false →
          storedBytes s t f.width f.address.addr (storedWord s rd) ∧ t.periphWrites = s.periphWrites) ∧
        (f.address.addr.msb = true → sameBytes s t ∧ t.periphWrites = s.periphWrites ++
          [{ addr := if f.width = .word then f.address.addr &&& 0xFFFFFFFC#32 else f.address.addr,
             data := replicate f.width (storedWord s rd), width := f.width }]) ∧
        (∀ q : Fin 30, t.regs[q] = baseResult s rn f.address.wb q) ∧ t.cpsr = s.cpsr ∧ t.pc = s.pc + 4 ∧
        keepsSpecial { s with periphWrites := t.periphWrites } t ∧ keepsPort s t

/-- Where the memory instructions stop. In numbers: a half-word at an odd address; below 2^31, an address at or above
`MEM_LIMIT`; from 2^31 on, an address in no window of `PERIPH_MAP`, a word's taken with bits 1:0 cleared; for a store, else,
a byte of `[cur + 4, cur + 12)`; at every other address the access is served (20_memory.md R101, R102, R110 to R112;
70_reset_and_hazards.md R620). A load, store or swap stops so; of a block or coprocessor transfer the first word that stops
is the one, as long as the coprocessor has not ended the transfer before. The model's own readings: a store that touches the
window stops even if no byte changes (log entry 10), and of two stops the one at the lower place in the transfer is the
instruction's (log entry 18). -/
def Obligations.TransfersStopOutsideMemory : Prop :=
  (∀ (cfg : Config) (cur a : Word) (w : Width),
    let odd : Prop := w = .half ∧ a.toNat % 2 = 1
    let at' : Nat := if w = .word then a.toNat / 4 * 4 else a.toNat
    let served : Prop := (a.toNat < 2 ^ 31 ∧ at' < cfg.memLimit) ∨
      (2 ^ 31 ≤ a.toNat ∧ ∃ p ∈ cfg.periphMap, p.base ≤ at' ∧ at' < p.base + p.size)
    let window : Prop := ∃ j, j < w.bytes ∧ (storeStart w a + j + 2 ^ 32 - (cur + 4).toNat) % 2 ^ 32 < 8
    (odd → busFault cfg w a = some .oddHalfword) ∧
    (¬ odd → served → busFault cfg w a = none) ∧
    (¬ odd → a.toNat < 2 ^ 31 → cfg.memLimit ≤ at' → busFault cfg w a = some .outsideMemory) ∧
    (¬ odd → 2 ^ 31 ≤ a.toNat → (∀ p ∈ cfg.periphMap, at' < p.base ∨ p.base + p.size ≤ at') →
      busFault cfg w a = some .outsidePeripherals) ∧
    (∀ e, busFault cfg w a = some e → storeFault cfg cur w a = some e) ∧
    (busFault cfg w a = none → window → storeFault cfg cur w a = some .prefetchWindow) ∧
    (busFault cfg w a = none → ¬ window → storeFault cfg cur w a = none)) ∧
  ∀ (c : Cond) (ix : Indexing) (p u n w sf : Bool) (rn rd rm : Reg) (off : Offset) (hoff : HalfOffset)
    (list : BitVec 16) (crd : BitVec 4) (cp : Fin 16) (imm8 : Byte) (s : State) (e : Fault),
    condPassed c s.cpsr = true →
    let word (k : Nat) : Word := cpStart p u rn imm8 s + BitVec.ofNat 32 (4 * k)
    let first (fault : Word → Option Fault) (at' : Nat → Word) (k : Nat) : Prop :=
      (∀ j, j < k → fault (at' j) = none) ∧ fault (at' k) = some e
    (∀ f ∈ loadForms c ix p u w rn rd off hoff s, f.refusal = none → busFault s.cfg f.width f.address.addr = some e →
      exec f.instr s = .fault e) ∧
    (∀ f ∈ storeForms c ix p u w rn rd off hoff s, f.refusal = none →
      storeFault s.cfg s.pc f.width f.address.addr = some e → exec f.instr s = .fault e) ∧
    (restrictSwap rn rd rm = none →
      (storeFault s.cfg s.pc .word (readReg s rn) = some e → exec (.swp c rn rd rm) s = .fault e) ∧
      (storeFault s.cfg s.pc .byte (readReg s rn) = some e → exec (.swpb c rn rd rm) s = .fault e)) ∧
    (restrictLdm sf w rn list = none → ∀ f ∈ ldmForms c sf w rn list, ∀ k, k < popcount list →
      first (busFault s.cfg .word) (blockWord f.2 rn list s) k → exec f.1 s = .fault e) ∧
    (restrictStm sf w rn list = none → ∀ f ∈ stmForms c sf w rn list, ∀ k, k < popcount list →
      first (storeFault s.cfg s.pc .word) (blockWord f.2 rn list s) k → exec f.1 s = .fault e) ∧
    (restrictCpTransfer p w rn = none → ∀ k, k < 16 →
      (let i := Instr.ldc c p u n w rn crd cp imm8;
        (ask cp (encode i) s).1 = .ack → first (busFault s.cfg .word) word k →
        (∀ vs : List Word, vs.length = k →
          (Config.wf s.cfg → cacheCoherent s.cfg s.mem s.cache → wordsRead s.mem word vs) →
          goesOn cp (vs.map some) (accepted cp (encode i) s)) →
        exec i s = .fault e) ∧
      (let i := Instr.stc c p u n w rn crd cp imm8;
        (ask cp (encode i) s).1 = .ack → first (storeFault s.cfg s.pc .word) word k →
        goesOn cp (List.replicate k none) (accepted cp (encode i) s) → exec i s = .fault e))

/-- SWP and SWPB: the old word (rotated) or byte goes to Rd, Rm's value to memory, every other byte and register as
before; in peripheral space the same is taken from a free word and the write is one more event, a word's with bits 1:0
of the address cleared (45_load_store.md R440, R441; 20_memory.md R110, R111, R116, R152 to R154). What an event records
and that it does nothing else is the model's choice (log entry 7). -/
def Obligations.SwapResults : Prop :=
  ∀ (c : Cond) (rn rd rm : Reg) (s : State), condPassed c s.cpsr = true → restrictSwap rn rd rm = none →
    Config.wf s.cfg → cacheCoherent s.cfg s.mem s.cache → Memory.wf s.mem →
    let a := readReg s rn
    let post (w : Width) (old : Word) (lane : Word → Word) (t : State) : Prop :=
      (∃ v : Word, (a.msb = false → v = old) ∧ (a.msb = true → ∃ x : Word, v = lane x) ∧ regResult s t rd v) ∧
      (a.msb = false → storedBytes s t w a (readReg s rm) ∧ t.periphWrites = s.periphWrites) ∧
      (a.msb = true → sameBytes s t ∧ t.periphWrites = s.periphWrites ++
        [{ addr := if w = .word then a &&& 0xFFFFFFFC#32 else a, data := replicate w (readReg s rm), width := w }]) ∧
      t.cpsr = s.cpsr ∧ t.pc = s.pc + 4 ∧ keepsSpecial { s with periphWrites := t.periphWrites } t ∧ keepsPort s t
    (storeFault s.cfg s.pc .word a = none →
      completes (.swp c rn rd rm) s (post .word (rotatedWordAt s.mem a.toNat) (rotatedLane a.toNat))) ∧
    (storeFault s.cfg s.pc .byte a = none →
      completes (.swpb c rn rd rm) s
        (post .byte ((readByte s.mem a.toNat).setWidth 32) fun x => (byteLane a.toNat x).setWidth 32))

/-! Block transfers -/

/-- LDM without R15: listed register number `k` takes the word at `start + 4k` with bits 1:0 ignored, in the User bank for
the S bit; a peripheral's word is free; the base as W says; every other register and all of memory as before
(46_block_transfer.md R460, R463, R464, R466). -/
def Obligations.LoadMultipleResults : Prop :=
  ∀ (c : Cond) (sf w : Bool) (rn : Reg) (list : BitVec 16) (s : State), condPassed c s.cpsr = true →
    restrictLdm sf w rn list = none → list.getLsbD 15 = false → Config.wf s.cfg →
    cacheCoherent s.cfg s.mem s.cache →
    ∀ f ∈ ldmForms c sf w rn list,
      (∀ k, k < popcount list → busFault s.cfg .word (blockWord f.2 rn list s k) = none) →
      completes f.1 s fun t =>
        (∀ i : Reg, list.getLsbD i.val = true → (blockWord f.2 rn list s (listRank list i)).msb = false →
          ∀ q, phys (blockBank s sf) i = some q →
            t.regs[q] = wordAt s.mem ((blockWord f.2 rn list s (listRank list i)).toNat / 4 * 4)) ∧
        (∀ q : Fin 30, (∀ i : Reg, list.getLsbD i.val = true → phys (blockBank s sf) i ≠ some q) →
          t.regs[q] = if w = true ∧ phys (modeBank s.cpsr.mode) rn = some q
            then tableFinal f.2 (readReg s rn) (popcount list) else s.regs[q]) ∧
        t.cpsr = s.cpsr ∧ t.pc = s.pc + 4 ∧ sameBytes s t ∧ keepsSpecial s t ∧ keepsPort s t

/-- LDM with R15: the other registers in the current mode, then the pc from the last word with bits 1:0 cleared; with
`S = 1` the CPSR is restored, or the restore's stop is the instruction's (46_block_transfer.md R462, R465). -/
def Obligations.LoadMultipleIntoPc : Prop :=
  ∀ (c : Cond) (sf w : Bool) (rn : Reg) (list : BitVec 16) (s : State), condPassed c s.cpsr = true →
    restrictLdm sf w rn list = none → list.getLsbD 15 = true → Config.wf s.cfg →
    cacheCoherent s.cfg s.mem s.cache →
    ∀ f ∈ ldmForms c sf w rn list,
      (∀ k, k < popcount list → busFault s.cfg .word (blockWord f.2 rn list s k) = none) →
      let last := blockWord f.2 rn list s (popcount list - 1)
      let post (p : Psr) (t : State) : Prop :=
        (∀ i : Reg, list.getLsbD i.val = true → (blockWord f.2 rn list s (listRank list i)).msb = false →
          ∀ q, phys (modeBank s.cpsr.mode) i = some q →
            t.regs[q] = wordAt s.mem ((blockWord f.2 rn list s (listRank list i)).toNat / 4 * 4)) ∧
        (∀ q : Fin 30, (∀ i : Reg, list.getLsbD i.val = true → phys (modeBank s.cpsr.mode) i ≠ some q) →
          t.regs[q] = if w = true ∧ phys (modeBank s.cpsr.mode) rn = some q
            then tableFinal f.2 (readReg s rn) (popcount list) else s.regs[q]) ∧
        (last.msb = false → t.pc = wordAt s.mem (last.toNat / 4 * 4) &&& 0xFFFFFFFC#32) ∧ t.pc.toNat % 4 = 0 ∧
        t.cpsr = p ∧ sameBytes s t ∧ keepsSpecial s t ∧ keepsPort s t
      (sf = false → completes f.1 s (post s.cpsr)) ∧
      (sf = true → ∀ u, restoreCpsr s = .next u → completes f.1 s (post u.cpsr)) ∧
      (sf = true → ∀ e, restoreCpsr s = .fault e → exec f.1 s = .fault e)

/-- STM: the word at `start + 4k` with bits 1:0 ignored takes listed register number `k`, of the User bank for the S bit,
R15 as `cur + PC_STORE_OFFSET`; each word in peripheral space is one more event, in order, with bits 1:0 of its address
cleared; every byte outside the words in memory, every register but the base and every flag as before
(46_block_transfer.md R461, R463, R464, R466, R472; 20_memory.md R111, R118). What an event records and that it does
nothing else is the model's choice (log entry 7). -/
def Obligations.StoreMultipleResults : Prop :=
  ∀ (c : Cond) (sf w : Bool) (rn : Reg) (list : BitVec 16) (s : State), condPassed c s.cpsr = true →
    restrictStm sf w rn list = none → Memory.wf s.mem →
    ∀ f ∈ stmForms c sf w rn list,
      (∀ k, k < popcount list → storeFault s.cfg s.pc .word (blockWord f.2 rn list s k) = none) →
      completes f.1 s fun t =>
        let a (i : Reg) : Word := blockWord f.2 rn list s (listRank list i)
        let v (i : Reg) : Word := if i = 15 then storedWord s 15 else readBank s (blockBank s sf) i
        (∀ i : Reg, list.getLsbD i.val = true → (a i).msb = false → wordAt t.mem ((a i).toNat / 4 * 4) = v i) ∧
        t.periphWrites = s.periphWrites ++ (List.finRange 16).filterMap (fun i =>
          if list.getLsbD i.val && (a i).msb then some (wordEvent (a i) (v i)) else none) ∧
        (∀ x, (∀ k, k < popcount list → (blockWord f.2 rn list s k).msb = false →
            storeTouches .word (blockWord f.2 rn list s k) x = false) → readByte t.mem x = readByte s.mem x) ∧
        (∀ q : Fin 30, t.regs[q] = if w = true ∧ phys (modeBank s.cpsr.mode) rn = some q
          then tableFinal f.2 (readReg s rn) (popcount list) else s.regs[q]) ∧
        t.cpsr = s.cpsr ∧ t.pc = s.pc + 4 ∧ keepsSpecial { s with periphWrites := t.periphWrites } t ∧ keepsPort s t

/-! Status register transfers -/

/-- MRS: the CPSR in every mode; the SPSR where there is one, else a stop (47_psr_transfer.md R490; 10_state.md R55). -/
def Obligations.ReadStatusRegisters : Prop :=
  ∀ (c : Cond) (rd : Reg) (s : State), condPassed c s.cpsr = true → rd ≠ 15 →
    completes (.mrsCpsr c rd) s (registerEffect s rd (psrWord s.cpsr) s.cpsr) ∧
    (∀ v, readSpsr s = some v → completes (.mrsSpsr c rd) s (registerEffect s rd v s.cpsr)) ∧
    ((s.cpsr.mode = .usr ∨ s.cpsr.mode = .sys) → exec (.mrsSpsr c rd) s = .fault .noSpsr)

/-- MSR to the CPSR: the flags when the f bit says so; in a privileged mode the mode, I and F when the c bit says so, a
T bit or an invalid mode stopping; in User mode the c bit changes nothing; no register of any bank changes
(47_psr_transfer.md R493, R494; 10_state.md R31, R50). -/
def Obligations.WriteCpsr : Prop :=
  ∀ (c : Cond) (mask rot : BitVec 4) (imm8 : Byte) (rm : Reg) (s : State), condPassed c s.cpsr = true → rm ≠ 15 →
    ∀ f ∈ [(Instr.msrReg c .cpsr mask rm, readReg s rm),
           (Instr.msrImm c .cpsr mask rot imm8, (imm8.setWidth 32 : Word).rotateRight (2 * rot.toNat))],
      let control : Bool := mask.getLsbD 0 && decide (s.cpsr.mode ≠ .usr)
      let post (m : Mode) (i fq : Bool) (t : State) : Prop :=
        t.cpsr.mode = m ∧ t.cpsr.i = i ∧ t.cpsr.f = fq ∧
        t.cpsr.n = (if mask.getLsbD 3 then f.2.getLsbD 31 else s.cpsr.n) ∧
        t.cpsr.z = (if mask.getLsbD 3 then f.2.getLsbD 30 else s.cpsr.z) ∧
        t.cpsr.c = (if mask.getLsbD 3 then f.2.getLsbD 29 else s.cpsr.c) ∧
        t.cpsr.v = (if mask.getLsbD 3 then f.2.getLsbD 28 else s.cpsr.v) ∧
        t.regs = s.regs ∧ t.pc = s.pc + 4 ∧ sameBytes s t ∧ keepsSpecial s t ∧ keepsPort s t
      (control = false → completes f.1 s (post s.cpsr.mode s.cpsr.i s.cpsr.f)) ∧
      (control = true → f.2.getLsbD 5 = true → exec f.1 s = .fault .thumbState) ∧
      (control = true → f.2.getLsbD 5 = false → modeOfCode (f.2.extractLsb' 0 5) = none →
        exec f.1 s = .fault .invalidMode) ∧
      (∀ m, control = true → f.2.getLsbD 5 = false → modeOfCode (f.2.extractLsb' 0 5) = some m →
        completes f.1 s (post m (f.2.getLsbD 7) (f.2.getLsbD 6)))

/-- MSR to the SPSR: each byte the mask selects, all 32 bits as written; a stop where there is no SPSR; the CPSR and every
other SPSR as before (47_psr_transfer.md R495; 10_state.md R55). -/
def Obligations.WriteSpsr : Prop :=
  ∀ (c : Cond) (mask rot : BitVec 4) (imm8 : Byte) (rm : Reg) (s : State), condPassed c s.cpsr = true → rm ≠ 15 →
    ∀ f ∈ [(Instr.msrReg c .spsr mask rm, readReg s rm),
           (Instr.msrImm c .spsr mask rot imm8, (imm8.setWidth 32 : Word).rotateRight (2 * rot.toNat))],
      (∀ old, readSpsr s = some old → completes f.1 s fun t =>
        (∃ v, readSpsr t = some v ∧ ∀ k, k < 32 →
          v.getLsbD k = if mask.getLsbD (k / 8) then f.2.getLsbD k else old.getLsbD k) ∧
        (∀ k : Fin 5, spsrIndex (modeBank s.cpsr.mode) ≠ some k → t.spsr[k] = s.spsr[k]) ∧
        t.cpsr = s.cpsr ∧ t.regs = s.regs ∧ t.pc = s.pc + 4 ∧ sameBytes s t ∧
        keepsSpecial { s with spsr := t.spsr } t ∧ keepsPort s t) ∧
      ((s.cpsr.mode = .usr ∨ s.cpsr.mode = .sys) → exec f.1 s = .fault .noSpsr)

/-! Coprocessors -/

/-- A coprocessor abort, or an empty slot, is the undefined trap with no other effect of the instruction: no register, flag
or memory of the core changes but those of the trap, and no plug-in's registers, as R512 says ("no register, flag, memory or
coprocessor state changes before `GO`") (48_coprocessor.md R511, R512; 60_exceptions.md R552). That the request and its
reply move what a given plug-in counts its waits with, and take one answer from the queue of a slot with none given, is
the model's choice (log entry 6). -/
def Obligations.CoprocessorAbortTraps : Prop :=
  ∀ (c : Cond) (op1 crn crd crm : BitVec 4) (o1 op2 : BitVec 3) (rd rn : Reg) (cp : Fin 16) (p u n w : Bool)
    (imm8 : Byte) (s : State), condPassed c s.cpsr = true →
    ∀ f ∈ cpForms c op1 crn crd crm o1 op2 rd rn cp p u n w imm8, f.2 = none →
      (s.cfg.cpSlots.contains cp = false ∨
        (s.cfg.cpSlots.contains cp = true ∧ (ask cp (encode f.1) s).1 = .abort)) →
      completes f.1 s fun t =>
        t.cpsr = { s.cpsr with mode := .und, i := true } ∧ t.pc = 0x04 ∧ readReg t 14 = s.pc + 4 ∧
        readSpsr t = some (psrWord s.cpsr) ∧
        (∀ q : Fin 30, phys .und 14 ≠ some q → t.regs[q] = s.regs[q]) ∧
        (∀ k : Fin 5, spsrIndex .und ≠ some k → t.spsr[k] = s.spsr[k]) ∧ sameBytes s t ∧
        keepsSpecial { s with spsr := t.spsr } t ∧ t.cp.request = false ∧
        exchanged (endHandshake .abort cp (encode f.1) s) s t

/-- A coprocessor that does not answer holds the core: the request is driven, the instruction stays where it is, nothing
else in the core changes, and no plug-in's registers, as R512 says ("no register, flag, memory or coprocessor state changes
before `GO`") (40_sequencer.md R232, R240; 48_coprocessor.md R512). The model's choices: a wait is a step of its own, which
the instruction then starts anew (log entry 13); it moves what a given plug-in counts its waits with, and takes one answer
from the queue of a slot with none given (log entry 6). -/
def Obligations.CoprocessorWaitHolds : Prop :=
  ∀ (c : Cond) (op1 crn crd crm : BitVec 4) (o1 op2 : BitVec 3) (rd rn : Reg) (cp : Fin 16) (p u n w : Bool)
    (imm8 : Byte) (s : State), condPassed c s.cpsr = true →
    ∀ f ∈ cpForms c op1 crn crd crm o1 op2 rd rn cp p u n w imm8, f.2 = none →
      (ask cp (encode f.1) s).1 = .wait →
      completes f.1 s fun t =>
        t.pc = s.pc ∧ t.pipe = s.pipe ∧ t.regs = s.regs ∧ t.cpsr = s.cpsr ∧ t.mem = s.mem ∧ t.cache = s.cache ∧
        keepsSpecial s t ∧ t.cp.request = true ∧ t.cp.instr = encode f.1 ∧ t.cp.sent = [] ∧
        exchanged (ask cp (encode f.1) s).2 s t

/-- CDP, MCR and MRC accepted: CDP changes no core state, MCR drives Rd, MRC writes Rd or, for R15, the flags alone, with
the word on the data-in lines. An empty slot aborts with no effect. A given plug-in is a function from its state and the
bus record to its new state and its lines: it sees the request, its lines are the reply, its registers stay till it is
accepted, and it sees each word that moves; an exchange with one slot leaves the others alone. In a system cycle every
given plug-in is cycled once, after the core, and the addressed one's lines are what the core sees next
(48_coprocessor.md R510 to R513, R515, R516, R520, R523; 70_reset_and_hazards.md R610). The model's choice (log entry 6):
the strobe `transfer`, which state is registers and which control, that lines are a given plug-in's, a queued or a free
one, and that the instruction level cycles the addressed plug-in alone; and (log entry 32) that `instr` and `dataOut` keep
the values driven last. -/
def Obligations.CoprocessorRegisterTransfers : Prop :=
  (∀ (cp : Fin 16) (word : Word) (v : Option Word) (s : State),
    let r := ask cp word s
    let a := accepted cp word s
    let given : Prop := s.cfg.cpSlots.contains cp = true ∧ s.cfg.cpPlugIns.contains cp = true
    let turn (request transfer : Bool) (data : Word) (q : PlugInState) : PlugInState × CpLines :=
      Config.plugIn cp q { request := request, instr := word, dataOut := data, transfer := transfer }
    (s.cfg.cpSlots.contains cp = false → r.1 = .abort ∧ r.2.cpState = s.cpState ∧ r.2.cpAnswers = s.cpAnswers) ∧
    (given →
      let x := turn true false s.cp.dataOut s.cpState[cp]
      let y := turn true false s.cp.dataOut r.2.cpState[cp]
      let z := turn false true (v.getD s.cp.dataOut) y.1
      (r.1 = .ack ↔ x.2.ack = true) ∧ (r.1 = .abort ↔ x.2.ack = false ∧ x.2.abort = true) ∧
      r.2.cpState[cp] = { x.1 with regs := s.cpState[cp].regs } ∧ a.cpState[cp] = y.1 ∧ a.cp.lines = y.2 ∧
      (moveWord cp v a).cpState[cp] = z.1 ∧ (moveWord cp v a).cp.lines = z.2) ∧
    (∀ j : Fin 16, j ≠ cp → r.2.cpState[j] = s.cpState[j] ∧ a.cpState[j] = s.cpState[j] ∧
      (moveWord cp v a).cpState[j] = s.cpState[j] ∧ (moveWord cp v a).cpAnswers[j] = s.cpAnswers[j])) ∧
  (∀ s x : State, busCycle (flushIfRequested (sampleInput s).2) = .next x → ∃ t : State,
    cycle s = .next (if (sampleInput s).1 = true then doReset t else t) ∧
    (t.cp.request = true ↔ x.cp.request = true ∧ x.cp.taken = .wait) ∧
    t = { x with cpState := t.cpState,
                 cp := { x.cp with lines := t.cp.lines, transfer := false, request := t.cp.request, taken := .wait } } ∧
    ∀ j : Fin 16,
      let y := Config.plugIn j x.cpState[j]
        { request := x.cp.request, instr := x.cp.instr, dataOut := x.cp.dataOut, transfer := x.cp.transfer }
      let addressed : Prop := cpAt x.cp.instr = j
      let given : Prop := x.cfg.cpSlots.contains j = true ∧ x.cfg.cpPlugIns.contains j = true
      (given → addressed → t.cp.lines = y.2) ∧ (¬ given → addressed → t.cp.lines = x.cp.lines) ∧
      (given → addressed → x.cp.request = true → x.cp.taken ≠ .ack →
        t.cpState[j] = { y.1 with regs := x.cpState[j].regs }) ∧
      (given → ¬ (addressed ∧ x.cp.request = true ∧ x.cp.taken ≠ .ack) → t.cpState[j] = y.1) ∧ (¬ given → t.cpState[j] = x.cpState[j])) ∧
  ∀ (c : Cond) (op1 crn crd crm : BitVec 4) (o1 op2 : BitVec 3) (rd : Reg) (cp : Fin 16) (s : State),
    condPassed c s.cpsr = true →
    let post (i : Instr) (u t : State) : Prop := t.pc = s.pc + 4 ∧ sameBytes s t ∧ keepsSpecial s t ∧
      t.cp.request = false ∧ t.cp.instr = encode i ∧ t.cpState = u.cpState ∧ t.cpAnswers = u.cpAnswers
    (let i := Instr.cdp c op1 crn crd cp op2 crm;
      (ask cp (encode i) s).1 = .ack → completes i s fun t =>
        post i (accepted cp (encode i) s) t ∧ t.regs = s.regs ∧ t.cpsr = s.cpsr ∧ t.cp.sent = []) ∧
    (let i := Instr.mcr c o1 crn rd cp op2 crm;
      (ask cp (encode i) s).1 = .ack → rd ≠ 15 → completes i s fun t =>
        post i (moveWord cp (some (readReg s rd)) (accepted cp (encode i) s)) t ∧ t.regs = s.regs ∧ t.cpsr = s.cpsr ∧
        t.cp.sent = [readReg s rd]) ∧
    (let i := Instr.mrc c o1 crn rd cp op2 crm;
      let a := accepted cp (encode i) s;
      (ask cp (encode i) s).1 = .ack → completes i s fun t =>
        post i (moveWord cp none (look cp a)) t ∧ t.cp.sent = [] ∧
        ∃ v : Word, (settled cp 1 a → v = (look cp a).cp.lines.dataIn) ∧ regResult s t rd v ∧
          (rd ≠ 15 → t.cpsr = s.cpsr) ∧
          (rd = 15 →
            t.cpsr = { s.cpsr with n := v.getLsbD 31, z := v.getLsbD 30, c := v.getLsbD 29, v := v.getLsbD 28 }))

/-- LDC accepted: the words at `start`, `start + 4`, … with bits 1:0 ignored go to the coprocessor, until it raises `last`,
1 to 16 of them, a peripheral's word being free; a given plug-in takes each of them in order; the base when W = 1; memory
and the flags as before. The transfer needs served addresses only as far as it goes (48_coprocessor.md R516, R525, R526).
That the lines are a plug-in's, a queued or a free one is the model's choice (log entry 6), and that `last` is the line seen
in the cycle of its word (log entry 17). -/
def Obligations.LoadCoprocessor : Prop :=
  ∀ (c : Cond) (p u n w : Bool) (rn : Reg) (crd : BitVec 4) (cp : Fin 16) (imm8 : Byte) (s : State),
    let i := Instr.ldc c p u n w rn crd cp imm8
    let a := accepted cp (encode i) s
    let word (k : Nat) : Word := cpStart p u rn imm8 s + BitVec.ofNat 32 (4 * k)
    condPassed c s.cpsr = true → restrictCpTransfer p w rn = none → (ask cp (encode i) s).1 = .ack →
    Config.wf s.cfg → cacheCoherent s.cfg s.mem s.cache →
    ∀ m, 1 ≤ m → m ≤ 16 → (∀ k, k < m → busFault s.cfg .word (word k) = none) →
    (∀ vs : List Word, vs.length = m → wordsRead s.mem word vs → endsWithin cp (vs.map some) a) →
    completes i s fun t =>
      1 ≤ t.cp.sent.length ∧ t.cp.sent.length ≤ m ∧ wordsRead s.mem word t.cp.sent ∧
      wholeTransfer cp (t.cp.sent.map some) a ∧
      (∀ q : Fin 30, t.regs[q] = baseResult s rn (if w then some (cpMoved u rn imm8 s) else none) q) ∧
      t.cpsr = s.cpsr ∧ t.pc = s.pc + 4 ∧ sameBytes s t ∧ keepsSpecial s t ∧ t.cp.request = false ∧
      t.cpState = (transferLines cp (t.cp.sent.map some) a).2.cpState ∧
      t.cpAnswers = (transferLines cp (t.cp.sent.map some) a).2.cpAnswers

/-- STC accepted: the words the coprocessor gives, until it raises `last`, 1 to 16 of them, go to `start`, `start + 4`, …
with bits 1:0 ignored; each word in peripheral space is one more event, in order, with bits 1:0 of its address cleared;
every byte outside the words in memory as before; the base when W = 1. The transfer needs served addresses only as far as
it goes (48_coprocessor.md R516, R525, R527; 20_memory.md R111, R118). The model's choices: the lines are a plug-in's, a
queued or a free one (log entry 6), `last` is the line seen in the cycle of its word (log entry 17), what an event records
and that it does nothing else (log entry 7). -/
def Obligations.StoreCoprocessor : Prop :=
  ∀ (c : Cond) (p u n w : Bool) (rn : Reg) (crd : BitVec 4) (cp : Fin 16) (imm8 : Byte) (s : State),
    let i := Instr.stc c p u n w rn crd cp imm8
    let a := accepted cp (encode i) s
    let word (k : Nat) : Word := cpStart p u rn imm8 s + BitVec.ofNat 32 (4 * k)
    condPassed c s.cpsr = true → restrictCpTransfer p w rn = none → (ask cp (encode i) s).1 = .ack → Memory.wf s.mem →
    ∀ m, 1 ≤ m → m ≤ 16 → (∀ k, k < m → storeFault s.cfg s.pc .word (word k) = none) →
    endsWithin cp (List.replicate m none) a →
    completes i s fun t => ∃ ds : List Word,
      let x := transferLines cp (List.replicate ds.length none) a
      1 ≤ ds.length ∧ ds.length ≤ m ∧ wholeTransfer cp (List.replicate ds.length none) a ∧
      (settled cp ds.length a → ds = x.1.map (·.dataIn)) ∧ wordsRead t.mem word ds ∧
      t.periphWrites = s.periphWrites ++ (List.range ds.length).filterMap (fun k =>
        if (word k).msb then some (wordEvent (word k) (ds.getD k 0)) else none) ∧
      (∀ y, (∀ k, k < ds.length → (word k).msb = false → storeTouches .word (word k) y = false) →
        readByte t.mem y = readByte s.mem y) ∧
      (∀ q : Fin 30, t.regs[q] = baseResult s rn (if w then some (cpMoved u rn imm8 s) else none) q) ∧
      t.cpsr = s.cpsr ∧ t.pc = s.pc + 4 ∧ keepsSpecial { s with periphWrites := t.periphWrites } t ∧
      t.cp.request = false ∧ t.cp.sent = [] ∧ t.cpState = x.2.cpState ∧ t.cpAnswers = x.2.cpAnswers

/-! Cache and bus -/

/-- A line installed is found again: every word of it hits, for the three kinds of cache (20_memory.md R120, R124, R125,
R126). -/
def Obligations.InstalledLineHits : Prop :=
  ∀ (cfg : Config) (c : Cache) (a n : Nat) (words : List Word), Config.wf cfg → cacheForm cfg c →
    words.length = cfg.lineWords →
    ∀ k, (hk : k < words.length) →
      cacheRead cfg (cacheWriteLine cfg c a words n).1 (lineBase cfg a + 4 * k) = .hit words[k]

/-- The cost of a read miss is `SETUP_CYCLES + BUS_SPEED * LINE_WORDS`: the cycle that finds it and those of the fill
(20_memory.md R143 to R146, 70_reset_and_hazards.md R632). Which cycle counts as the first is log entry 16. -/
def Obligations.MissCost : Prop :=
  ∀ (s : State) (a : Word) (fuel : Nat), 1 ≤ s.cfg.busSpeed → 1 ≤ s.cfg.lineWords → missCycles s.cfg ≤ fuel →
    stallCycles fuel (missTick a s) + 1 = missCycles s.cfg

/-- The recipes of the model have between 1 and 20 control words, so that two queues stay within 40: the row of each class
gives the number (40_sequencer.md R241), and 20 is the n + 4 of an LDM of 16 registers (40_sequencer.md R245). Two parts are
the model's and no rule of the spec: an LDM or STM of an empty list, which the spec refuses, has one control word (DESIGN
CHOICE, log entry 31), and an STM of n registers has n + 1 as its row says, where R245 allows it 6 (DEDUCED, log
entry 21). -/
def Obligations.RecipeLength : Prop :=
  ∀ (cfg : Config) (i : Instr), 1 ≤ (recipe cfg i).length ∧ (recipe cfg i).length ≤ 20

/-- The cycle level and the instruction level agree on data processing: with the fetch served at once, one cycle of any of
the sixteen operations that needs neither a register-specified shift nor a write of R15 leaves what `exec` leaves, and the
queue run out (00_scope.md R8; 40_sequencer.md R228, R235, R241). What the two levels share, `architectural`, is the
model's own reading (log entry 12). -/
def Obligations.OneCycleDataProcessing : Prop :=
  ∀ (c : Cond) (sf : Bool) (rn rd : Reg) (op : Operand2) (s : State), quietBoundary s → Config.wf s.cfg →
    cacheCoherent s.cfg s.mem s.cache → pipeAddresses s → condPassed c s.cpsr = true → isRegShift op = false →
    s.pipe.next.ok = true → inMemory s.cfg s.pipe.fetchAddr →
    (∃ x, cacheRead s.cfg s.cache (alignWord s.pipe.fetchAddr).toNat = .hit x) →
    ∀ i, ((rd ≠ 15 ∧ i ∈ (writingForms c sf rn rd op s).map (·.1)) ∨
          i ∈ [Instr.tst c rn 0 op, .teq c rn 0 op, .cmp c rn 0 op, .cmn c rn 0 op]) →
      unpredictable i = none → decode s.pipe.next.word = i →
      ∃ x y, cycle s = .next x ∧ exec i s = .next y ∧ architectural x = architectural y ∧ exhausted x = true

/-! Invariants -/

/-- The invariant holds after reset, with the parameters of log entry 3 (70_reset_and_hazards.md R600). -/
def Obligations.ResetMeetsInvariant : Prop := Inv State.reset

/-- Every step keeps the pc a multiple of 4 and the pipe's addresses two and one words ahead (10_state.md R61,
40_sequencer.md R226, R236). -/
def Obligations.StepKeepsThePipe : Prop :=
  ∀ s t : State, pcAligned s → pipeAddresses s → step s = .next t → pcAligned t ∧ pipeAddresses t

/-- Every step keeps memory in canonical form and below `MEM_LIMIT`, and the parameters (20_memory.md R101, 00_scope.md
R9). -/
def Obligations.StepKeepsMemoryForm : Prop :=
  ∀ s t : State, Config.wf s.cfg → memoryForm s → step s = .next t → memoryForm t ∧ t.cfg = s.cfg

/-- Every step keeps the whole invariant: the cache holds no line twice and agrees with memory unless a flush is due, the
words already fetched are the ones memory holds, and every control word is free or queued once (20_memory.md R127, R150,
R158, R162; 40_sequencer.md R224, R227; 70_reset_and_hazards.md R620). Two things are the model's choice: that the flush
comes before anything else of a step (log entry 33), and that a word fetched outside memory, which `pipeContents` fixes
too, is 0 (log entry 28: R227 says `poison` and gives no value). -/
def Obligations.StepKeepsInvariant : Prop :=
  ∀ s t : State, Inv s → step s = .next t → Inv t
end

