-- ==== Sys2Proof/Laws/State.lean ====
section
/-! SUPPORT. What each shared update leaves alone, field by field: later proofs never unfold a record update. -/

namespace Sys2Proof.Machine

variable (s : State)

/-! `writeBank` -/

@[simp] theorem writeBank_cfg (b : Bank) (i : Reg) (v : Word) : (writeBank b i v s).cfg = s.cfg := by unfold writeBank; split <;> rfl
@[simp] theorem writeBank_pc (b : Bank) (i : Reg) (v : Word) : (writeBank b i v s).pc = s.pc := by unfold writeBank; split <;> rfl
@[simp] theorem writeBank_cpsr (b : Bank) (i : Reg) (v : Word) : (writeBank b i v s).cpsr = s.cpsr := by unfold writeBank; split <;> rfl
@[simp] theorem writeBank_spsr (b : Bank) (i : Reg) (v : Word) : (writeBank b i v s).spsr = s.spsr := by unfold writeBank; split <;> rfl
@[simp] theorem writeBank_mem (b : Bank) (i : Reg) (v : Word) : (writeBank b i v s).mem = s.mem := by unfold writeBank; split <;> rfl
@[simp] theorem writeBank_cache (b : Bank) (i : Reg) (v : Word) : (writeBank b i v s).cache = s.cache := by unfold writeBank; split <;> rfl
@[simp] theorem writeBank_pipe (b : Bank) (i : Reg) (v : Word) : (writeBank b i v s).pipe = s.pipe := by unfold writeBank; split <;> rfl
@[simp] theorem writeBank_flushRequest (b : Bank) (i : Reg) (v : Word) : (writeBank b i v s).flushRequest = s.flushRequest := by unfold writeBank; split <;> rfl
@[simp] theorem writeBank_irq (b : Bank) (i : Reg) (v : Word) : (writeBank b i v s).irq = s.irq := by unfold writeBank; split <;> rfl
@[simp] theorem writeBank_lines (b : Bank) (i : Reg) (v : Word) : (writeBank b i v s).lines = s.lines := by unfold writeBank; split <;> rfl
@[simp] theorem writeBank_inputs (b : Bank) (i : Reg) (v : Word) : (writeBank b i v s).inputs = s.inputs := by unfold writeBank; split <;> rfl
@[simp] theorem writeBank_mul (b : Bank) (i : Reg) (v : Word) : (writeBank b i v s).mul = s.mul := by unfold writeBank; split <;> rfl
@[simp] theorem writeBank_cp (b : Bank) (i : Reg) (v : Word) : (writeBank b i v s).cp = s.cp := by unfold writeBank; split <;> rfl
@[simp] theorem writeBank_cpState (b : Bank) (i : Reg) (v : Word) : (writeBank b i v s).cpState = s.cpState := by unfold writeBank; split <;> rfl
@[simp] theorem writeBank_cpAnswers (b : Bank) (i : Reg) (v : Word) : (writeBank b i v s).cpAnswers = s.cpAnswers := by unfold writeBank; split <;> rfl
@[simp] theorem writeBank_swiAnswers (b : Bank) (i : Reg) (v : Word) : (writeBank b i v s).swiAnswers = s.swiAnswers := by unfold writeBank; split <;> rfl
@[simp] theorem writeBank_periphWrites (b : Bank) (i : Reg) (v : Word) : (writeBank b i v s).periphWrites = s.periphWrites := by unfold writeBank; split <;> rfl
@[simp] theorem writeBank_seq (b : Bank) (i : Reg) (v : Word) : (writeBank b i v s).seq = s.seq := by unfold writeBank; split <;> rfl
@[simp] theorem writeBank_pool (b : Bank) (i : Reg) (v : Word) : (writeBank b i v s).pool = s.pool := by unfold writeBank; split <;> rfl
@[simp] theorem writeBank_latches (b : Bank) (i : Reg) (v : Word) : (writeBank b i v s).latches = s.latches := by unfold writeBank; split <;> rfl
@[simp] theorem writeBank_bus (b : Bank) (i : Reg) (v : Word) : (writeBank b i v s).bus = s.bus := by unfold writeBank; split <;> rfl
@[simp] theorem writeBank_draws (b : Bank) (i : Reg) (v : Word) : (writeBank b i v s).draws = s.draws := by unfold writeBank; split <;> rfl

/-! `writeReg` -/

@[simp] theorem writeReg_cfg (i : Reg) (v : Word) : (writeReg i v s).cfg = s.cfg := by simp [writeReg]
@[simp] theorem writeReg_pc (i : Reg) (v : Word) : (writeReg i v s).pc = s.pc := by simp [writeReg]
@[simp] theorem writeReg_cpsr (i : Reg) (v : Word) : (writeReg i v s).cpsr = s.cpsr := by simp [writeReg]
@[simp] theorem writeReg_spsr (i : Reg) (v : Word) : (writeReg i v s).spsr = s.spsr := by simp [writeReg]
@[simp] theorem writeReg_mem (i : Reg) (v : Word) : (writeReg i v s).mem = s.mem := by simp [writeReg]
@[simp] theorem writeReg_cache (i : Reg) (v : Word) : (writeReg i v s).cache = s.cache := by simp [writeReg]
@[simp] theorem writeReg_pipe (i : Reg) (v : Word) : (writeReg i v s).pipe = s.pipe := by simp [writeReg]
@[simp] theorem writeReg_flushRequest (i : Reg) (v : Word) : (writeReg i v s).flushRequest = s.flushRequest := by simp [writeReg]
@[simp] theorem writeReg_irq (i : Reg) (v : Word) : (writeReg i v s).irq = s.irq := by simp [writeReg]
@[simp] theorem writeReg_lines (i : Reg) (v : Word) : (writeReg i v s).lines = s.lines := by simp [writeReg]
@[simp] theorem writeReg_inputs (i : Reg) (v : Word) : (writeReg i v s).inputs = s.inputs := by simp [writeReg]
@[simp] theorem writeReg_mul (i : Reg) (v : Word) : (writeReg i v s).mul = s.mul := by simp [writeReg]
@[simp] theorem writeReg_cp (i : Reg) (v : Word) : (writeReg i v s).cp = s.cp := by simp [writeReg]
@[simp] theorem writeReg_cpState (i : Reg) (v : Word) : (writeReg i v s).cpState = s.cpState := by simp [writeReg]
@[simp] theorem writeReg_cpAnswers (i : Reg) (v : Word) : (writeReg i v s).cpAnswers = s.cpAnswers := by simp [writeReg]
@[simp] theorem writeReg_swiAnswers (i : Reg) (v : Word) : (writeReg i v s).swiAnswers = s.swiAnswers := by simp [writeReg]
@[simp] theorem writeReg_periphWrites (i : Reg) (v : Word) : (writeReg i v s).periphWrites = s.periphWrites := by simp [writeReg]
@[simp] theorem writeReg_seq (i : Reg) (v : Word) : (writeReg i v s).seq = s.seq := by simp [writeReg]
@[simp] theorem writeReg_pool (i : Reg) (v : Word) : (writeReg i v s).pool = s.pool := by simp [writeReg]
@[simp] theorem writeReg_latches (i : Reg) (v : Word) : (writeReg i v s).latches = s.latches := by simp [writeReg]
@[simp] theorem writeReg_bus (i : Reg) (v : Word) : (writeReg i v s).bus = s.bus := by simp [writeReg]
@[simp] theorem writeReg_draws (i : Reg) (v : Word) : (writeReg i v s).draws = s.draws := by simp [writeReg]

/-! `writeSpsr` -/

@[simp] theorem writeSpsr_cfg (b : Bank) (v : Word) : (writeSpsr b v s).cfg = s.cfg := by unfold writeSpsr; split <;> rfl
@[simp] theorem writeSpsr_regs (b : Bank) (v : Word) : (writeSpsr b v s).regs = s.regs := by unfold writeSpsr; split <;> rfl
@[simp] theorem writeSpsr_pc (b : Bank) (v : Word) : (writeSpsr b v s).pc = s.pc := by unfold writeSpsr; split <;> rfl
@[simp] theorem writeSpsr_cpsr (b : Bank) (v : Word) : (writeSpsr b v s).cpsr = s.cpsr := by unfold writeSpsr; split <;> rfl
@[simp] theorem writeSpsr_mem (b : Bank) (v : Word) : (writeSpsr b v s).mem = s.mem := by unfold writeSpsr; split <;> rfl
@[simp] theorem writeSpsr_cache (b : Bank) (v : Word) : (writeSpsr b v s).cache = s.cache := by unfold writeSpsr; split <;> rfl
@[simp] theorem writeSpsr_pipe (b : Bank) (v : Word) : (writeSpsr b v s).pipe = s.pipe := by unfold writeSpsr; split <;> rfl
@[simp] theorem writeSpsr_flushRequest (b : Bank) (v : Word) : (writeSpsr b v s).flushRequest = s.flushRequest := by unfold writeSpsr; split <;> rfl
@[simp] theorem writeSpsr_irq (b : Bank) (v : Word) : (writeSpsr b v s).irq = s.irq := by unfold writeSpsr; split <;> rfl
@[simp] theorem writeSpsr_lines (b : Bank) (v : Word) : (writeSpsr b v s).lines = s.lines := by unfold writeSpsr; split <;> rfl
@[simp] theorem writeSpsr_inputs (b : Bank) (v : Word) : (writeSpsr b v s).inputs = s.inputs := by unfold writeSpsr; split <;> rfl
@[simp] theorem writeSpsr_mul (b : Bank) (v : Word) : (writeSpsr b v s).mul = s.mul := by unfold writeSpsr; split <;> rfl
@[simp] theorem writeSpsr_cp (b : Bank) (v : Word) : (writeSpsr b v s).cp = s.cp := by unfold writeSpsr; split <;> rfl
@[simp] theorem writeSpsr_cpState (b : Bank) (v : Word) : (writeSpsr b v s).cpState = s.cpState := by unfold writeSpsr; split <;> rfl
@[simp] theorem writeSpsr_cpAnswers (b : Bank) (v : Word) : (writeSpsr b v s).cpAnswers = s.cpAnswers := by unfold writeSpsr; split <;> rfl
@[simp] theorem writeSpsr_swiAnswers (b : Bank) (v : Word) : (writeSpsr b v s).swiAnswers = s.swiAnswers := by unfold writeSpsr; split <;> rfl
@[simp] theorem writeSpsr_periphWrites (b : Bank) (v : Word) : (writeSpsr b v s).periphWrites = s.periphWrites := by unfold writeSpsr; split <;> rfl
@[simp] theorem writeSpsr_seq (b : Bank) (v : Word) : (writeSpsr b v s).seq = s.seq := by unfold writeSpsr; split <;> rfl
@[simp] theorem writeSpsr_pool (b : Bank) (v : Word) : (writeSpsr b v s).pool = s.pool := by unfold writeSpsr; split <;> rfl
@[simp] theorem writeSpsr_latches (b : Bank) (v : Word) : (writeSpsr b v s).latches = s.latches := by unfold writeSpsr; split <;> rfl
@[simp] theorem writeSpsr_bus (b : Bank) (v : Word) : (writeSpsr b v s).bus = s.bus := by unfold writeSpsr; split <;> rfl
@[simp] theorem writeSpsr_draws (b : Bank) (v : Word) : (writeSpsr b v s).draws = s.draws := by unfold writeSpsr; split <;> rfl

/-! `writeBack` -/

@[simp] theorem writeBack_cfg (i : Reg) (wb : Option Word) : (writeBack i wb s).cfg = s.cfg := by unfold writeBack; split <;> simp
@[simp] theorem writeBack_pc (i : Reg) (wb : Option Word) : (writeBack i wb s).pc = s.pc := by unfold writeBack; split <;> simp
@[simp] theorem writeBack_cpsr (i : Reg) (wb : Option Word) : (writeBack i wb s).cpsr = s.cpsr := by unfold writeBack; split <;> simp
@[simp] theorem writeBack_spsr (i : Reg) (wb : Option Word) : (writeBack i wb s).spsr = s.spsr := by unfold writeBack; split <;> simp
@[simp] theorem writeBack_mem (i : Reg) (wb : Option Word) : (writeBack i wb s).mem = s.mem := by unfold writeBack; split <;> simp
@[simp] theorem writeBack_cache (i : Reg) (wb : Option Word) : (writeBack i wb s).cache = s.cache := by unfold writeBack; split <;> simp
@[simp] theorem writeBack_pipe (i : Reg) (wb : Option Word) : (writeBack i wb s).pipe = s.pipe := by unfold writeBack; split <;> simp
@[simp] theorem writeBack_flushRequest (i : Reg) (wb : Option Word) : (writeBack i wb s).flushRequest = s.flushRequest := by unfold writeBack; split <;> simp
@[simp] theorem writeBack_irq (i : Reg) (wb : Option Word) : (writeBack i wb s).irq = s.irq := by unfold writeBack; split <;> simp
@[simp] theorem writeBack_lines (i : Reg) (wb : Option Word) : (writeBack i wb s).lines = s.lines := by unfold writeBack; split <;> simp
@[simp] theorem writeBack_inputs (i : Reg) (wb : Option Word) : (writeBack i wb s).inputs = s.inputs := by unfold writeBack; split <;> simp
@[simp] theorem writeBack_mul (i : Reg) (wb : Option Word) : (writeBack i wb s).mul = s.mul := by unfold writeBack; split <;> simp
@[simp] theorem writeBack_cp (i : Reg) (wb : Option Word) : (writeBack i wb s).cp = s.cp := by unfold writeBack; split <;> simp
@[simp] theorem writeBack_cpState (i : Reg) (wb : Option Word) : (writeBack i wb s).cpState = s.cpState := by unfold writeBack; split <;> simp
@[simp] theorem writeBack_cpAnswers (i : Reg) (wb : Option Word) : (writeBack i wb s).cpAnswers = s.cpAnswers := by unfold writeBack; split <;> simp
@[simp] theorem writeBack_swiAnswers (i : Reg) (wb : Option Word) : (writeBack i wb s).swiAnswers = s.swiAnswers := by unfold writeBack; split <;> simp
@[simp] theorem writeBack_periphWrites (i : Reg) (wb : Option Word) : (writeBack i wb s).periphWrites = s.periphWrites := by unfold writeBack; split <;> simp
@[simp] theorem writeBack_seq (i : Reg) (wb : Option Word) : (writeBack i wb s).seq = s.seq := by unfold writeBack; split <;> simp
@[simp] theorem writeBack_pool (i : Reg) (wb : Option Word) : (writeBack i wb s).pool = s.pool := by unfold writeBack; split <;> simp
@[simp] theorem writeBack_latches (i : Reg) (wb : Option Word) : (writeBack i wb s).latches = s.latches := by unfold writeBack; split <;> simp
@[simp] theorem writeBack_bus (i : Reg) (wb : Option Word) : (writeBack i wb s).bus = s.bus := by unfold writeBack; split <;> simp
@[simp] theorem writeBack_draws (i : Reg) (wb : Option Word) : (writeBack i wb s).draws = s.draws := by unfold writeBack; split <;> simp

/-! `setMode` -/

@[simp] theorem setMode_cfg (m : Mode) : (setMode m s).cfg = s.cfg := rfl
@[simp] theorem setMode_regs (m : Mode) : (setMode m s).regs = s.regs := rfl
@[simp] theorem setMode_pc (m : Mode) : (setMode m s).pc = s.pc := rfl
@[simp] theorem setMode_spsr (m : Mode) : (setMode m s).spsr = s.spsr := rfl
@[simp] theorem setMode_mem (m : Mode) : (setMode m s).mem = s.mem := rfl
@[simp] theorem setMode_cache (m : Mode) : (setMode m s).cache = s.cache := rfl
@[simp] theorem setMode_pipe (m : Mode) : (setMode m s).pipe = s.pipe := rfl
@[simp] theorem setMode_flushRequest (m : Mode) : (setMode m s).flushRequest = s.flushRequest := rfl
@[simp] theorem setMode_irq (m : Mode) : (setMode m s).irq = s.irq := rfl
@[simp] theorem setMode_lines (m : Mode) : (setMode m s).lines = s.lines := rfl
@[simp] theorem setMode_inputs (m : Mode) : (setMode m s).inputs = s.inputs := rfl
@[simp] theorem setMode_mul (m : Mode) : (setMode m s).mul = s.mul := rfl
@[simp] theorem setMode_cp (m : Mode) : (setMode m s).cp = s.cp := rfl
@[simp] theorem setMode_cpState (m : Mode) : (setMode m s).cpState = s.cpState := rfl
@[simp] theorem setMode_cpAnswers (m : Mode) : (setMode m s).cpAnswers = s.cpAnswers := rfl
@[simp] theorem setMode_swiAnswers (m : Mode) : (setMode m s).swiAnswers = s.swiAnswers := rfl
@[simp] theorem setMode_periphWrites (m : Mode) : (setMode m s).periphWrites = s.periphWrites := rfl
@[simp] theorem setMode_seq (m : Mode) : (setMode m s).seq = s.seq := rfl
@[simp] theorem setMode_pool (m : Mode) : (setMode m s).pool = s.pool := rfl
@[simp] theorem setMode_latches (m : Mode) : (setMode m s).latches = s.latches := rfl
@[simp] theorem setMode_bus (m : Mode) : (setMode m s).bus = s.bus := rfl
@[simp] theorem setMode_draws (m : Mode) : (setMode m s).draws = s.draws := rfl

/-! `setPc` -/

@[simp] theorem setPc_cfg (t : Word) : (setPc t s).cfg = s.cfg := rfl
@[simp] theorem setPc_regs (t : Word) : (setPc t s).regs = s.regs := rfl
@[simp] theorem setPc_cpsr (t : Word) : (setPc t s).cpsr = s.cpsr := rfl
@[simp] theorem setPc_spsr (t : Word) : (setPc t s).spsr = s.spsr := rfl
@[simp] theorem setPc_mem (t : Word) : (setPc t s).mem = s.mem := rfl
@[simp] theorem setPc_cache (t : Word) : (setPc t s).cache = s.cache := rfl
@[simp] theorem setPc_flushRequest (t : Word) : (setPc t s).flushRequest = s.flushRequest := rfl
@[simp] theorem setPc_irq (t : Word) : (setPc t s).irq = s.irq := rfl
@[simp] theorem setPc_lines (t : Word) : (setPc t s).lines = s.lines := rfl
@[simp] theorem setPc_inputs (t : Word) : (setPc t s).inputs = s.inputs := rfl
@[simp] theorem setPc_mul (t : Word) : (setPc t s).mul = s.mul := rfl
@[simp] theorem setPc_cp (t : Word) : (setPc t s).cp = s.cp := rfl
@[simp] theorem setPc_cpState (t : Word) : (setPc t s).cpState = s.cpState := rfl
@[simp] theorem setPc_cpAnswers (t : Word) : (setPc t s).cpAnswers = s.cpAnswers := rfl
@[simp] theorem setPc_swiAnswers (t : Word) : (setPc t s).swiAnswers = s.swiAnswers := rfl
@[simp] theorem setPc_periphWrites (t : Word) : (setPc t s).periphWrites = s.periphWrites := rfl
@[simp] theorem setPc_seq (t : Word) : (setPc t s).seq = s.seq := rfl
@[simp] theorem setPc_pool (t : Word) : (setPc t s).pool = s.pool := rfl
@[simp] theorem setPc_latches (t : Word) : (setPc t s).latches = s.latches := rfl
@[simp] theorem setPc_bus (t : Word) : (setPc t s).bus = s.bus := rfl
@[simp] theorem setPc_draws (t : Word) : (setPc t s).draws = s.draws := rfl

/-! `advance` -/

@[simp] theorem advance_cfg : (advance s).cfg = s.cfg := rfl
@[simp] theorem advance_regs : (advance s).regs = s.regs := rfl
@[simp] theorem advance_cpsr : (advance s).cpsr = s.cpsr := rfl
@[simp] theorem advance_spsr : (advance s).spsr = s.spsr := rfl
@[simp] theorem advance_mem : (advance s).mem = s.mem := rfl
@[simp] theorem advance_cache : (advance s).cache = s.cache := rfl
@[simp] theorem advance_pipe : (advance s).pipe = s.pipe := rfl
@[simp] theorem advance_flushRequest : (advance s).flushRequest = s.flushRequest := rfl
@[simp] theorem advance_irq : (advance s).irq = s.irq := rfl
@[simp] theorem advance_lines : (advance s).lines = s.lines := rfl
@[simp] theorem advance_inputs : (advance s).inputs = s.inputs := rfl
@[simp] theorem advance_mul : (advance s).mul = s.mul := rfl
@[simp] theorem advance_cp : (advance s).cp = s.cp := rfl
@[simp] theorem advance_cpState : (advance s).cpState = s.cpState := rfl
@[simp] theorem advance_cpAnswers : (advance s).cpAnswers = s.cpAnswers := rfl
@[simp] theorem advance_swiAnswers : (advance s).swiAnswers = s.swiAnswers := rfl
@[simp] theorem advance_periphWrites : (advance s).periphWrites = s.periphWrites := rfl
@[simp] theorem advance_seq : (advance s).seq = s.seq := rfl
@[simp] theorem advance_pool : (advance s).pool = s.pool := rfl
@[simp] theorem advance_latches : (advance s).latches = s.latches := rfl
@[simp] theorem advance_bus : (advance s).bus = s.bus := rfl
@[simp] theorem advance_draws : (advance s).draws = s.draws := rfl

/-! `cachedWord` -/

@[simp] theorem cachedWord_cfg (a : Nat) : ((cachedWord a s).2).cfg = s.cfg := by unfold cachedWord; split <;> dsimp only <;> (try split) <;> rfl
@[simp] theorem cachedWord_regs (a : Nat) : ((cachedWord a s).2).regs = s.regs := by unfold cachedWord; split <;> dsimp only <;> (try split) <;> rfl
@[simp] theorem cachedWord_pc (a : Nat) : ((cachedWord a s).2).pc = s.pc := by unfold cachedWord; split <;> dsimp only <;> (try split) <;> rfl
@[simp] theorem cachedWord_cpsr (a : Nat) : ((cachedWord a s).2).cpsr = s.cpsr := by unfold cachedWord; split <;> dsimp only <;> (try split) <;> rfl
@[simp] theorem cachedWord_spsr (a : Nat) : ((cachedWord a s).2).spsr = s.spsr := by unfold cachedWord; split <;> dsimp only <;> (try split) <;> rfl
@[simp] theorem cachedWord_mem (a : Nat) : ((cachedWord a s).2).mem = s.mem := by unfold cachedWord; split <;> dsimp only <;> (try split) <;> rfl
@[simp] theorem cachedWord_pipe (a : Nat) : ((cachedWord a s).2).pipe = s.pipe := by unfold cachedWord; split <;> dsimp only <;> (try split) <;> rfl
@[simp] theorem cachedWord_flushRequest (a : Nat) : ((cachedWord a s).2).flushRequest = s.flushRequest := by unfold cachedWord; split <;> dsimp only <;> (try split) <;> rfl
@[simp] theorem cachedWord_irq (a : Nat) : ((cachedWord a s).2).irq = s.irq := by unfold cachedWord; split <;> dsimp only <;> (try split) <;> rfl
@[simp] theorem cachedWord_lines (a : Nat) : ((cachedWord a s).2).lines = s.lines := by unfold cachedWord; split <;> dsimp only <;> (try split) <;> rfl
@[simp] theorem cachedWord_inputs (a : Nat) : ((cachedWord a s).2).inputs = s.inputs := by unfold cachedWord; split <;> dsimp only <;> (try split) <;> rfl
@[simp] theorem cachedWord_mul (a : Nat) : ((cachedWord a s).2).mul = s.mul := by unfold cachedWord; split <;> dsimp only <;> (try split) <;> rfl
@[simp] theorem cachedWord_cp (a : Nat) : ((cachedWord a s).2).cp = s.cp := by unfold cachedWord; split <;> dsimp only <;> (try split) <;> rfl
@[simp] theorem cachedWord_cpState (a : Nat) : ((cachedWord a s).2).cpState = s.cpState := by unfold cachedWord; split <;> dsimp only <;> (try split) <;> rfl
@[simp] theorem cachedWord_cpAnswers (a : Nat) : ((cachedWord a s).2).cpAnswers = s.cpAnswers := by unfold cachedWord; split <;> dsimp only <;> (try split) <;> rfl
@[simp] theorem cachedWord_swiAnswers (a : Nat) : ((cachedWord a s).2).swiAnswers = s.swiAnswers := by unfold cachedWord; split <;> dsimp only <;> (try split) <;> rfl
@[simp] theorem cachedWord_periphWrites (a : Nat) : ((cachedWord a s).2).periphWrites = s.periphWrites := by unfold cachedWord; split <;> dsimp only <;> (try split) <;> rfl
@[simp] theorem cachedWord_seq (a : Nat) : ((cachedWord a s).2).seq = s.seq := by unfold cachedWord; split <;> dsimp only <;> (try split) <;> rfl
@[simp] theorem cachedWord_pool (a : Nat) : ((cachedWord a s).2).pool = s.pool := by unfold cachedWord; split <;> dsimp only <;> (try split) <;> rfl
@[simp] theorem cachedWord_latches (a : Nat) : ((cachedWord a s).2).latches = s.latches := by unfold cachedWord; split <;> dsimp only <;> (try split) <;> rfl
@[simp] theorem cachedWord_bus (a : Nat) : ((cachedWord a s).2).bus = s.bus := by unfold cachedWord; split <;> dsimp only <;> (try split) <;> rfl

/-! `busWord` -/

@[simp] theorem busWord_cfg (a : Word) : ((busWord a s).2).cfg = s.cfg := by unfold busWord; split <;> simp
@[simp] theorem busWord_regs (a : Word) : ((busWord a s).2).regs = s.regs := by unfold busWord; split <;> simp
@[simp] theorem busWord_pc (a : Word) : ((busWord a s).2).pc = s.pc := by unfold busWord; split <;> simp
@[simp] theorem busWord_cpsr (a : Word) : ((busWord a s).2).cpsr = s.cpsr := by unfold busWord; split <;> simp
@[simp] theorem busWord_spsr (a : Word) : ((busWord a s).2).spsr = s.spsr := by unfold busWord; split <;> simp
@[simp] theorem busWord_mem (a : Word) : ((busWord a s).2).mem = s.mem := by unfold busWord; split <;> simp
@[simp] theorem busWord_pipe (a : Word) : ((busWord a s).2).pipe = s.pipe := by unfold busWord; split <;> simp
@[simp] theorem busWord_flushRequest (a : Word) : ((busWord a s).2).flushRequest = s.flushRequest := by unfold busWord; split <;> simp
@[simp] theorem busWord_irq (a : Word) : ((busWord a s).2).irq = s.irq := by unfold busWord; split <;> simp
@[simp] theorem busWord_lines (a : Word) : ((busWord a s).2).lines = s.lines := by unfold busWord; split <;> simp
@[simp] theorem busWord_inputs (a : Word) : ((busWord a s).2).inputs = s.inputs := by unfold busWord; split <;> simp
@[simp] theorem busWord_mul (a : Word) : ((busWord a s).2).mul = s.mul := by unfold busWord; split <;> simp
@[simp] theorem busWord_cp (a : Word) : ((busWord a s).2).cp = s.cp := by unfold busWord; split <;> simp
@[simp] theorem busWord_cpState (a : Word) : ((busWord a s).2).cpState = s.cpState := by unfold busWord; split <;> simp
@[simp] theorem busWord_cpAnswers (a : Word) : ((busWord a s).2).cpAnswers = s.cpAnswers := by unfold busWord; split <;> simp
@[simp] theorem busWord_swiAnswers (a : Word) : ((busWord a s).2).swiAnswers = s.swiAnswers := by unfold busWord; split <;> simp
@[simp] theorem busWord_periphWrites (a : Word) : ((busWord a s).2).periphWrites = s.periphWrites := by unfold busWord; split <;> simp
@[simp] theorem busWord_seq (a : Word) : ((busWord a s).2).seq = s.seq := by unfold busWord; split <;> simp
@[simp] theorem busWord_pool (a : Word) : ((busWord a s).2).pool = s.pool := by unfold busWord; split <;> simp
@[simp] theorem busWord_latches (a : Word) : ((busWord a s).2).latches = s.latches := by unfold busWord; split <;> simp
@[simp] theorem busWord_bus (a : Word) : ((busWord a s).2).bus = s.bus := by unfold busWord; split <;> simp

/-! `fetch` -/

@[simp] theorem fetch_cfg (a : Word) : ((fetch a s).2).cfg = s.cfg := by unfold fetch; split <;> simp
@[simp] theorem fetch_regs (a : Word) : ((fetch a s).2).regs = s.regs := by unfold fetch; split <;> simp
@[simp] theorem fetch_pc (a : Word) : ((fetch a s).2).pc = s.pc := by unfold fetch; split <;> simp
@[simp] theorem fetch_cpsr (a : Word) : ((fetch a s).2).cpsr = s.cpsr := by unfold fetch; split <;> simp
@[simp] theorem fetch_spsr (a : Word) : ((fetch a s).2).spsr = s.spsr := by unfold fetch; split <;> simp
@[simp] theorem fetch_mem (a : Word) : ((fetch a s).2).mem = s.mem := by unfold fetch; split <;> simp
@[simp] theorem fetch_pipe (a : Word) : ((fetch a s).2).pipe = s.pipe := by unfold fetch; split <;> simp
@[simp] theorem fetch_flushRequest (a : Word) : ((fetch a s).2).flushRequest = s.flushRequest := by unfold fetch; split <;> simp
@[simp] theorem fetch_irq (a : Word) : ((fetch a s).2).irq = s.irq := by unfold fetch; split <;> simp
@[simp] theorem fetch_lines (a : Word) : ((fetch a s).2).lines = s.lines := by unfold fetch; split <;> simp
@[simp] theorem fetch_inputs (a : Word) : ((fetch a s).2).inputs = s.inputs := by unfold fetch; split <;> simp
@[simp] theorem fetch_mul (a : Word) : ((fetch a s).2).mul = s.mul := by unfold fetch; split <;> simp
@[simp] theorem fetch_cp (a : Word) : ((fetch a s).2).cp = s.cp := by unfold fetch; split <;> simp
@[simp] theorem fetch_cpState (a : Word) : ((fetch a s).2).cpState = s.cpState := by unfold fetch; split <;> simp
@[simp] theorem fetch_cpAnswers (a : Word) : ((fetch a s).2).cpAnswers = s.cpAnswers := by unfold fetch; split <;> simp
@[simp] theorem fetch_swiAnswers (a : Word) : ((fetch a s).2).swiAnswers = s.swiAnswers := by unfold fetch; split <;> simp
@[simp] theorem fetch_periphWrites (a : Word) : ((fetch a s).2).periphWrites = s.periphWrites := by unfold fetch; split <;> simp
@[simp] theorem fetch_seq (a : Word) : ((fetch a s).2).seq = s.seq := by unfold fetch; split <;> simp
@[simp] theorem fetch_pool (a : Word) : ((fetch a s).2).pool = s.pool := by unfold fetch; split <;> simp
@[simp] theorem fetch_latches (a : Word) : ((fetch a s).2).latches = s.latches := by unfold fetch; split <;> simp
@[simp] theorem fetch_bus (a : Word) : ((fetch a s).2).bus = s.bus := by unfold fetch; split <;> simp

/-! `prefetch` -/

@[simp] theorem prefetch_cfg : (prefetch s).cfg = s.cfg := by simp [prefetch]
@[simp] theorem prefetch_regs : (prefetch s).regs = s.regs := by simp [prefetch]
@[simp] theorem prefetch_pc : (prefetch s).pc = s.pc := by simp [prefetch]
@[simp] theorem prefetch_cpsr : (prefetch s).cpsr = s.cpsr := by simp [prefetch]
@[simp] theorem prefetch_spsr : (prefetch s).spsr = s.spsr := by simp [prefetch]
@[simp] theorem prefetch_mem : (prefetch s).mem = s.mem := by simp [prefetch]
@[simp] theorem prefetch_flushRequest : (prefetch s).flushRequest = s.flushRequest := by simp [prefetch]
@[simp] theorem prefetch_irq : (prefetch s).irq = s.irq := by simp [prefetch]
@[simp] theorem prefetch_lines : (prefetch s).lines = s.lines := by simp [prefetch]
@[simp] theorem prefetch_inputs : (prefetch s).inputs = s.inputs := by simp [prefetch]
@[simp] theorem prefetch_mul : (prefetch s).mul = s.mul := by simp [prefetch]
@[simp] theorem prefetch_cp : (prefetch s).cp = s.cp := by simp [prefetch]
@[simp] theorem prefetch_cpState : (prefetch s).cpState = s.cpState := by simp [prefetch]
@[simp] theorem prefetch_cpAnswers : (prefetch s).cpAnswers = s.cpAnswers := by simp [prefetch]
@[simp] theorem prefetch_swiAnswers : (prefetch s).swiAnswers = s.swiAnswers := by simp [prefetch]
@[simp] theorem prefetch_periphWrites : (prefetch s).periphWrites = s.periphWrites := by simp [prefetch]
@[simp] theorem prefetch_seq : (prefetch s).seq = s.seq := by simp [prefetch]
@[simp] theorem prefetch_pool : (prefetch s).pool = s.pool := by simp [prefetch]
@[simp] theorem prefetch_latches : (prefetch s).latches = s.latches := by simp [prefetch]
@[simp] theorem prefetch_bus : (prefetch s).bus = s.bus := by simp [prefetch]

/-! `refill1` -/

@[simp] theorem refill1_cfg : (refill1 s).cfg = s.cfg := by simp [refill1]
@[simp] theorem refill1_regs : (refill1 s).regs = s.regs := by simp [refill1]
@[simp] theorem refill1_pc : (refill1 s).pc = s.pc := by simp [refill1]
@[simp] theorem refill1_cpsr : (refill1 s).cpsr = s.cpsr := by simp [refill1]
@[simp] theorem refill1_spsr : (refill1 s).spsr = s.spsr := by simp [refill1]
@[simp] theorem refill1_mem : (refill1 s).mem = s.mem := by simp [refill1]
@[simp] theorem refill1_flushRequest : (refill1 s).flushRequest = s.flushRequest := by simp [refill1]
@[simp] theorem refill1_irq : (refill1 s).irq = s.irq := by simp [refill1]
@[simp] theorem refill1_lines : (refill1 s).lines = s.lines := by simp [refill1]
@[simp] theorem refill1_inputs : (refill1 s).inputs = s.inputs := by simp [refill1]
@[simp] theorem refill1_mul : (refill1 s).mul = s.mul := by simp [refill1]
@[simp] theorem refill1_cp : (refill1 s).cp = s.cp := by simp [refill1]
@[simp] theorem refill1_cpState : (refill1 s).cpState = s.cpState := by simp [refill1]
@[simp] theorem refill1_cpAnswers : (refill1 s).cpAnswers = s.cpAnswers := by simp [refill1]
@[simp] theorem refill1_swiAnswers : (refill1 s).swiAnswers = s.swiAnswers := by simp [refill1]
@[simp] theorem refill1_periphWrites : (refill1 s).periphWrites = s.periphWrites := by simp [refill1]
@[simp] theorem refill1_seq : (refill1 s).seq = s.seq := by simp [refill1]
@[simp] theorem refill1_pool : (refill1 s).pool = s.pool := by simp [refill1]
@[simp] theorem refill1_latches : (refill1 s).latches = s.latches := by simp [refill1]
@[simp] theorem refill1_bus : (refill1 s).bus = s.bus := by simp [refill1]

/-! `jump` -/

@[simp] theorem jump_cfg (t : Word) : (jump t s).cfg = s.cfg := by simp [jump]
@[simp] theorem jump_regs (t : Word) : (jump t s).regs = s.regs := by simp [jump]
@[simp] theorem jump_cpsr (t : Word) : (jump t s).cpsr = s.cpsr := by simp [jump]
@[simp] theorem jump_spsr (t : Word) : (jump t s).spsr = s.spsr := by simp [jump]
@[simp] theorem jump_mem (t : Word) : (jump t s).mem = s.mem := by simp [jump]
@[simp] theorem jump_flushRequest (t : Word) : (jump t s).flushRequest = s.flushRequest := by simp [jump]
@[simp] theorem jump_irq (t : Word) : (jump t s).irq = s.irq := by simp [jump]
@[simp] theorem jump_lines (t : Word) : (jump t s).lines = s.lines := by simp [jump]
@[simp] theorem jump_inputs (t : Word) : (jump t s).inputs = s.inputs := by simp [jump]
@[simp] theorem jump_mul (t : Word) : (jump t s).mul = s.mul := by simp [jump]
@[simp] theorem jump_cp (t : Word) : (jump t s).cp = s.cp := by simp [jump]
@[simp] theorem jump_cpState (t : Word) : (jump t s).cpState = s.cpState := by simp [jump]
@[simp] theorem jump_cpAnswers (t : Word) : (jump t s).cpAnswers = s.cpAnswers := by simp [jump]
@[simp] theorem jump_swiAnswers (t : Word) : (jump t s).swiAnswers = s.swiAnswers := by simp [jump]
@[simp] theorem jump_periphWrites (t : Word) : (jump t s).periphWrites = s.periphWrites := by simp [jump]
@[simp] theorem jump_seq (t : Word) : (jump t s).seq = s.seq := by simp [jump]
@[simp] theorem jump_pool (t : Word) : (jump t s).pool = s.pool := by simp [jump]
@[simp] theorem jump_latches (t : Word) : (jump t s).latches = s.latches := by simp [jump]
@[simp] theorem jump_bus (t : Word) : (jump t s).bus = s.bus := by simp [jump]

/-! `skip` -/

@[simp] theorem skip_cfg : (skip s).cfg = s.cfg := by simp [skip]
@[simp] theorem skip_regs : (skip s).regs = s.regs := by simp [skip]
@[simp] theorem skip_cpsr : (skip s).cpsr = s.cpsr := by simp [skip]
@[simp] theorem skip_spsr : (skip s).spsr = s.spsr := by simp [skip]
@[simp] theorem skip_mem : (skip s).mem = s.mem := by simp [skip]
@[simp] theorem skip_flushRequest : (skip s).flushRequest = s.flushRequest := by simp [skip]
@[simp] theorem skip_irq : (skip s).irq = s.irq := by simp [skip]
@[simp] theorem skip_lines : (skip s).lines = s.lines := by simp [skip]
@[simp] theorem skip_inputs : (skip s).inputs = s.inputs := by simp [skip]
@[simp] theorem skip_mul : (skip s).mul = s.mul := by simp [skip]
@[simp] theorem skip_cp : (skip s).cp = s.cp := by simp [skip]
@[simp] theorem skip_cpState : (skip s).cpState = s.cpState := by simp [skip]
@[simp] theorem skip_cpAnswers : (skip s).cpAnswers = s.cpAnswers := by simp [skip]
@[simp] theorem skip_swiAnswers : (skip s).swiAnswers = s.swiAnswers := by simp [skip]
@[simp] theorem skip_periphWrites : (skip s).periphWrites = s.periphWrites := by simp [skip]
@[simp] theorem skip_seq : (skip s).seq = s.seq := by simp [skip]
@[simp] theorem skip_pool : (skip s).pool = s.pool := by simp [skip]
@[simp] theorem skip_latches : (skip s).latches = s.latches := by simp [skip]
@[simp] theorem skip_bus : (skip s).bus = s.bus := by simp [skip]

/-! `saveState` -/

@[simp] theorem saveState_cfg (e : Exc) (lr : Word) : (saveState e lr s).cfg = s.cfg := by simp [saveState]
@[simp] theorem saveState_pc (e : Exc) (lr : Word) : (saveState e lr s).pc = s.pc := by simp [saveState]
@[simp] theorem saveState_mem (e : Exc) (lr : Word) : (saveState e lr s).mem = s.mem := by simp [saveState]
@[simp] theorem saveState_cache (e : Exc) (lr : Word) : (saveState e lr s).cache = s.cache := by simp [saveState]
@[simp] theorem saveState_pipe (e : Exc) (lr : Word) : (saveState e lr s).pipe = s.pipe := by simp [saveState]
@[simp] theorem saveState_flushRequest (e : Exc) (lr : Word) : (saveState e lr s).flushRequest = s.flushRequest := by simp [saveState]
@[simp] theorem saveState_irq (e : Exc) (lr : Word) : (saveState e lr s).irq = s.irq := by simp [saveState]
@[simp] theorem saveState_lines (e : Exc) (lr : Word) : (saveState e lr s).lines = s.lines := by simp [saveState]
@[simp] theorem saveState_inputs (e : Exc) (lr : Word) : (saveState e lr s).inputs = s.inputs := by simp [saveState]
@[simp] theorem saveState_mul (e : Exc) (lr : Word) : (saveState e lr s).mul = s.mul := by simp [saveState]
@[simp] theorem saveState_cp (e : Exc) (lr : Word) : (saveState e lr s).cp = s.cp := by simp [saveState]
@[simp] theorem saveState_cpState (e : Exc) (lr : Word) : (saveState e lr s).cpState = s.cpState := by simp [saveState]
@[simp] theorem saveState_cpAnswers (e : Exc) (lr : Word) : (saveState e lr s).cpAnswers = s.cpAnswers := by simp [saveState]
@[simp] theorem saveState_swiAnswers (e : Exc) (lr : Word) : (saveState e lr s).swiAnswers = s.swiAnswers := by simp [saveState]
@[simp] theorem saveState_periphWrites (e : Exc) (lr : Word) : (saveState e lr s).periphWrites = s.periphWrites := by simp [saveState]
@[simp] theorem saveState_seq (e : Exc) (lr : Word) : (saveState e lr s).seq = s.seq := by simp [saveState]
@[simp] theorem saveState_pool (e : Exc) (lr : Word) : (saveState e lr s).pool = s.pool := by simp [saveState]
@[simp] theorem saveState_latches (e : Exc) (lr : Word) : (saveState e lr s).latches = s.latches := by simp [saveState]
@[simp] theorem saveState_bus (e : Exc) (lr : Word) : (saveState e lr s).bus = s.bus := by simp [saveState]
@[simp] theorem saveState_draws (e : Exc) (lr : Word) : (saveState e lr s).draws = s.draws := by simp [saveState]

/-! `enterException` -/

@[simp] theorem enterException_cfg (e : Exc) (lr : Word) : (enterException e lr s).cfg = s.cfg := by simp [enterException]
@[simp] theorem enterException_mem (e : Exc) (lr : Word) : (enterException e lr s).mem = s.mem := by simp [enterException]
@[simp] theorem enterException_flushRequest (e : Exc) (lr : Word) : (enterException e lr s).flushRequest = s.flushRequest := by simp [enterException]
@[simp] theorem enterException_irq (e : Exc) (lr : Word) : (enterException e lr s).irq = s.irq := by simp [enterException]
@[simp] theorem enterException_lines (e : Exc) (lr : Word) : (enterException e lr s).lines = s.lines := by simp [enterException]
@[simp] theorem enterException_inputs (e : Exc) (lr : Word) : (enterException e lr s).inputs = s.inputs := by simp [enterException]
@[simp] theorem enterException_mul (e : Exc) (lr : Word) : (enterException e lr s).mul = s.mul := by simp [enterException]
@[simp] theorem enterException_cp (e : Exc) (lr : Word) : (enterException e lr s).cp = s.cp := by simp [enterException]
@[simp] theorem enterException_cpState (e : Exc) (lr : Word) : (enterException e lr s).cpState = s.cpState := by simp [enterException]
@[simp] theorem enterException_cpAnswers (e : Exc) (lr : Word) : (enterException e lr s).cpAnswers = s.cpAnswers := by simp [enterException]
@[simp] theorem enterException_swiAnswers (e : Exc) (lr : Word) : (enterException e lr s).swiAnswers = s.swiAnswers := by simp [enterException]
@[simp] theorem enterException_periphWrites (e : Exc) (lr : Word) : (enterException e lr s).periphWrites = s.periphWrites := by simp [enterException]
@[simp] theorem enterException_seq (e : Exc) (lr : Word) : (enterException e lr s).seq = s.seq := by simp [enterException]
@[simp] theorem enterException_pool (e : Exc) (lr : Word) : (enterException e lr s).pool = s.pool := by simp [enterException]
@[simp] theorem enterException_latches (e : Exc) (lr : Word) : (enterException e lr s).latches = s.latches := by simp [enterException]
@[simp] theorem enterException_bus (e : Exc) (lr : Word) : (enterException e lr s).bus = s.bus := by simp [enterException]

/-! `storeEffect` -/

@[simp] theorem storeEffect_cfg (w : Width) (a v : Word) : (storeEffect w a v s).cfg = s.cfg := by unfold storeEffect; split <;> rfl
@[simp] theorem storeEffect_regs (w : Width) (a v : Word) : (storeEffect w a v s).regs = s.regs := by unfold storeEffect; split <;> rfl
@[simp] theorem storeEffect_pc (w : Width) (a v : Word) : (storeEffect w a v s).pc = s.pc := by unfold storeEffect; split <;> rfl
@[simp] theorem storeEffect_cpsr (w : Width) (a v : Word) : (storeEffect w a v s).cpsr = s.cpsr := by unfold storeEffect; split <;> rfl
@[simp] theorem storeEffect_spsr (w : Width) (a v : Word) : (storeEffect w a v s).spsr = s.spsr := by unfold storeEffect; split <;> rfl
@[simp] theorem storeEffect_pipe (w : Width) (a v : Word) : (storeEffect w a v s).pipe = s.pipe := by unfold storeEffect; split <;> rfl
@[simp] theorem storeEffect_flushRequest (w : Width) (a v : Word) : (storeEffect w a v s).flushRequest = s.flushRequest := by unfold storeEffect; split <;> rfl
@[simp] theorem storeEffect_irq (w : Width) (a v : Word) : (storeEffect w a v s).irq = s.irq := by unfold storeEffect; split <;> rfl
@[simp] theorem storeEffect_lines (w : Width) (a v : Word) : (storeEffect w a v s).lines = s.lines := by unfold storeEffect; split <;> rfl
@[simp] theorem storeEffect_inputs (w : Width) (a v : Word) : (storeEffect w a v s).inputs = s.inputs := by unfold storeEffect; split <;> rfl
@[simp] theorem storeEffect_mul (w : Width) (a v : Word) : (storeEffect w a v s).mul = s.mul := by unfold storeEffect; split <;> rfl
@[simp] theorem storeEffect_cp (w : Width) (a v : Word) : (storeEffect w a v s).cp = s.cp := by unfold storeEffect; split <;> rfl
@[simp] theorem storeEffect_cpState (w : Width) (a v : Word) : (storeEffect w a v s).cpState = s.cpState := by unfold storeEffect; split <;> rfl
@[simp] theorem storeEffect_cpAnswers (w : Width) (a v : Word) : (storeEffect w a v s).cpAnswers = s.cpAnswers := by unfold storeEffect; split <;> rfl
@[simp] theorem storeEffect_swiAnswers (w : Width) (a v : Word) : (storeEffect w a v s).swiAnswers = s.swiAnswers := by unfold storeEffect; split <;> rfl
@[simp] theorem storeEffect_seq (w : Width) (a v : Word) : (storeEffect w a v s).seq = s.seq := by unfold storeEffect; split <;> rfl
@[simp] theorem storeEffect_pool (w : Width) (a v : Word) : (storeEffect w a v s).pool = s.pool := by unfold storeEffect; split <;> rfl
@[simp] theorem storeEffect_latches (w : Width) (a v : Word) : (storeEffect w a v s).latches = s.latches := by unfold storeEffect; split <;> rfl
@[simp] theorem storeEffect_bus (w : Width) (a v : Word) : (storeEffect w a v s).bus = s.bus := by unfold storeEffect; split <;> rfl
@[simp] theorem storeEffect_draws (w : Width) (a v : Word) : (storeEffect w a v s).draws = s.draws := by unfold storeEffect; split <;> rfl

/-! `latchInterrupts` -/

@[simp] theorem latchInterrupts_cfg (l : Lines) : (latchInterrupts l s).cfg = s.cfg := rfl
@[simp] theorem latchInterrupts_regs (l : Lines) : (latchInterrupts l s).regs = s.regs := rfl
@[simp] theorem latchInterrupts_pc (l : Lines) : (latchInterrupts l s).pc = s.pc := rfl
@[simp] theorem latchInterrupts_cpsr (l : Lines) : (latchInterrupts l s).cpsr = s.cpsr := rfl
@[simp] theorem latchInterrupts_spsr (l : Lines) : (latchInterrupts l s).spsr = s.spsr := rfl
@[simp] theorem latchInterrupts_mem (l : Lines) : (latchInterrupts l s).mem = s.mem := rfl
@[simp] theorem latchInterrupts_cache (l : Lines) : (latchInterrupts l s).cache = s.cache := rfl
@[simp] theorem latchInterrupts_pipe (l : Lines) : (latchInterrupts l s).pipe = s.pipe := rfl
@[simp] theorem latchInterrupts_flushRequest (l : Lines) : (latchInterrupts l s).flushRequest = s.flushRequest := rfl
@[simp] theorem latchInterrupts_lines (l : Lines) : (latchInterrupts l s).lines = s.lines := rfl
@[simp] theorem latchInterrupts_inputs (l : Lines) : (latchInterrupts l s).inputs = s.inputs := rfl
@[simp] theorem latchInterrupts_mul (l : Lines) : (latchInterrupts l s).mul = s.mul := rfl
@[simp] theorem latchInterrupts_cp (l : Lines) : (latchInterrupts l s).cp = s.cp := rfl
@[simp] theorem latchInterrupts_cpState (l : Lines) : (latchInterrupts l s).cpState = s.cpState := rfl
@[simp] theorem latchInterrupts_cpAnswers (l : Lines) : (latchInterrupts l s).cpAnswers = s.cpAnswers := rfl
@[simp] theorem latchInterrupts_swiAnswers (l : Lines) : (latchInterrupts l s).swiAnswers = s.swiAnswers := rfl
@[simp] theorem latchInterrupts_periphWrites (l : Lines) : (latchInterrupts l s).periphWrites = s.periphWrites := rfl
@[simp] theorem latchInterrupts_seq (l : Lines) : (latchInterrupts l s).seq = s.seq := rfl
@[simp] theorem latchInterrupts_pool (l : Lines) : (latchInterrupts l s).pool = s.pool := rfl
@[simp] theorem latchInterrupts_latches (l : Lines) : (latchInterrupts l s).latches = s.latches := rfl
@[simp] theorem latchInterrupts_bus (l : Lines) : (latchInterrupts l s).bus = s.bus := rfl
@[simp] theorem latchInterrupts_draws (l : Lines) : (latchInterrupts l s).draws = s.draws := rfl

/-! `clearPending` -/

@[simp] theorem clearPending_cfg (e : Exc) : (clearPending e s).cfg = s.cfg := by cases e <;> rfl
@[simp] theorem clearPending_regs (e : Exc) : (clearPending e s).regs = s.regs := by cases e <;> rfl
@[simp] theorem clearPending_pc (e : Exc) : (clearPending e s).pc = s.pc := by cases e <;> rfl
@[simp] theorem clearPending_cpsr (e : Exc) : (clearPending e s).cpsr = s.cpsr := by cases e <;> rfl
@[simp] theorem clearPending_spsr (e : Exc) : (clearPending e s).spsr = s.spsr := by cases e <;> rfl
@[simp] theorem clearPending_mem (e : Exc) : (clearPending e s).mem = s.mem := by cases e <;> rfl
@[simp] theorem clearPending_cache (e : Exc) : (clearPending e s).cache = s.cache := by cases e <;> rfl
@[simp] theorem clearPending_pipe (e : Exc) : (clearPending e s).pipe = s.pipe := by cases e <;> rfl
@[simp] theorem clearPending_flushRequest (e : Exc) : (clearPending e s).flushRequest = s.flushRequest := by cases e <;> rfl
@[simp] theorem clearPending_lines (e : Exc) : (clearPending e s).lines = s.lines := by cases e <;> rfl
@[simp] theorem clearPending_inputs (e : Exc) : (clearPending e s).inputs = s.inputs := by cases e <;> rfl
@[simp] theorem clearPending_mul (e : Exc) : (clearPending e s).mul = s.mul := by cases e <;> rfl
@[simp] theorem clearPending_cp (e : Exc) : (clearPending e s).cp = s.cp := by cases e <;> rfl
@[simp] theorem clearPending_cpState (e : Exc) : (clearPending e s).cpState = s.cpState := by cases e <;> rfl
@[simp] theorem clearPending_cpAnswers (e : Exc) : (clearPending e s).cpAnswers = s.cpAnswers := by cases e <;> rfl
@[simp] theorem clearPending_swiAnswers (e : Exc) : (clearPending e s).swiAnswers = s.swiAnswers := by cases e <;> rfl
@[simp] theorem clearPending_periphWrites (e : Exc) : (clearPending e s).periphWrites = s.periphWrites := by cases e <;> rfl
@[simp] theorem clearPending_seq (e : Exc) : (clearPending e s).seq = s.seq := by cases e <;> rfl
@[simp] theorem clearPending_pool (e : Exc) : (clearPending e s).pool = s.pool := by cases e <;> rfl
@[simp] theorem clearPending_latches (e : Exc) : (clearPending e s).latches = s.latches := by cases e <;> rfl
@[simp] theorem clearPending_bus (e : Exc) : (clearPending e s).bus = s.bus := by cases e <;> rfl
@[simp] theorem clearPending_draws (e : Exc) : (clearPending e s).draws = s.draws := by cases e <;> rfl

/-! `flushIfRequested` -/

@[simp] theorem flushIfRequested_cfg : (flushIfRequested s).cfg = s.cfg := by unfold flushIfRequested; split <;> rfl
@[simp] theorem flushIfRequested_regs : (flushIfRequested s).regs = s.regs := by unfold flushIfRequested; split <;> rfl
@[simp] theorem flushIfRequested_pc : (flushIfRequested s).pc = s.pc := by unfold flushIfRequested; split <;> rfl
@[simp] theorem flushIfRequested_cpsr : (flushIfRequested s).cpsr = s.cpsr := by unfold flushIfRequested; split <;> rfl
@[simp] theorem flushIfRequested_spsr : (flushIfRequested s).spsr = s.spsr := by unfold flushIfRequested; split <;> rfl
@[simp] theorem flushIfRequested_mem : (flushIfRequested s).mem = s.mem := by unfold flushIfRequested; split <;> rfl
@[simp] theorem flushIfRequested_pipe : (flushIfRequested s).pipe = s.pipe := by unfold flushIfRequested; split <;> rfl
@[simp] theorem flushIfRequested_irq : (flushIfRequested s).irq = s.irq := by unfold flushIfRequested; split <;> rfl
@[simp] theorem flushIfRequested_lines : (flushIfRequested s).lines = s.lines := by unfold flushIfRequested; split <;> rfl
@[simp] theorem flushIfRequested_inputs : (flushIfRequested s).inputs = s.inputs := by unfold flushIfRequested; split <;> rfl
@[simp] theorem flushIfRequested_mul : (flushIfRequested s).mul = s.mul := by unfold flushIfRequested; split <;> rfl
@[simp] theorem flushIfRequested_cp : (flushIfRequested s).cp = s.cp := by unfold flushIfRequested; split <;> rfl
@[simp] theorem flushIfRequested_cpState : (flushIfRequested s).cpState = s.cpState := by unfold flushIfRequested; split <;> rfl
@[simp] theorem flushIfRequested_cpAnswers : (flushIfRequested s).cpAnswers = s.cpAnswers := by unfold flushIfRequested; split <;> rfl
@[simp] theorem flushIfRequested_swiAnswers : (flushIfRequested s).swiAnswers = s.swiAnswers := by unfold flushIfRequested; split <;> rfl
@[simp] theorem flushIfRequested_periphWrites : (flushIfRequested s).periphWrites = s.periphWrites := by unfold flushIfRequested; split <;> rfl
@[simp] theorem flushIfRequested_seq : (flushIfRequested s).seq = s.seq := by unfold flushIfRequested; split <;> rfl
@[simp] theorem flushIfRequested_pool : (flushIfRequested s).pool = s.pool := by unfold flushIfRequested; split <;> rfl
@[simp] theorem flushIfRequested_latches : (flushIfRequested s).latches = s.latches := by unfold flushIfRequested; split <;> rfl
@[simp] theorem flushIfRequested_bus : (flushIfRequested s).bus = s.bus := by unfold flushIfRequested; split <;> rfl
@[simp] theorem flushIfRequested_draws : (flushIfRequested s).draws = s.draws := by unfold flushIfRequested; split <;> rfl

/-! `sampleInput` -/

@[simp] theorem sampleInput_cfg : ((sampleInput s).2).cfg = s.cfg := by unfold sampleInput; split <;> rfl
@[simp] theorem sampleInput_regs : ((sampleInput s).2).regs = s.regs := by unfold sampleInput; split <;> rfl
@[simp] theorem sampleInput_pc : ((sampleInput s).2).pc = s.pc := by unfold sampleInput; split <;> rfl
@[simp] theorem sampleInput_cpsr : ((sampleInput s).2).cpsr = s.cpsr := by unfold sampleInput; split <;> rfl
@[simp] theorem sampleInput_spsr : ((sampleInput s).2).spsr = s.spsr := by unfold sampleInput; split <;> rfl
@[simp] theorem sampleInput_mem : ((sampleInput s).2).mem = s.mem := by unfold sampleInput; split <;> rfl
@[simp] theorem sampleInput_cache : ((sampleInput s).2).cache = s.cache := by unfold sampleInput; split <;> rfl
@[simp] theorem sampleInput_pipe : ((sampleInput s).2).pipe = s.pipe := by unfold sampleInput; split <;> rfl
@[simp] theorem sampleInput_flushRequest : ((sampleInput s).2).flushRequest = s.flushRequest := by unfold sampleInput; split <;> rfl
@[simp] theorem sampleInput_irq : ((sampleInput s).2).irq = s.irq := by unfold sampleInput; split <;> rfl
@[simp] theorem sampleInput_mul : ((sampleInput s).2).mul = s.mul := by unfold sampleInput; split <;> rfl
@[simp] theorem sampleInput_cp : ((sampleInput s).2).cp = s.cp := by unfold sampleInput; split <;> rfl
@[simp] theorem sampleInput_cpState : ((sampleInput s).2).cpState = s.cpState := by unfold sampleInput; split <;> rfl
@[simp] theorem sampleInput_cpAnswers : ((sampleInput s).2).cpAnswers = s.cpAnswers := by unfold sampleInput; split <;> rfl
@[simp] theorem sampleInput_swiAnswers : ((sampleInput s).2).swiAnswers = s.swiAnswers := by unfold sampleInput; split <;> rfl
@[simp] theorem sampleInput_periphWrites : ((sampleInput s).2).periphWrites = s.periphWrites := by unfold sampleInput; split <;> rfl
@[simp] theorem sampleInput_seq : ((sampleInput s).2).seq = s.seq := by unfold sampleInput; split <;> rfl
@[simp] theorem sampleInput_pool : ((sampleInput s).2).pool = s.pool := by unfold sampleInput; split <;> rfl
@[simp] theorem sampleInput_latches : ((sampleInput s).2).latches = s.latches := by unfold sampleInput; split <;> rfl
@[simp] theorem sampleInput_bus : ((sampleInput s).2).bus = s.bus := by unfold sampleInput; split <;> rfl
@[simp] theorem sampleInput_draws : ((sampleInput s).2).draws = s.draws := by unfold sampleInput; split <;> rfl

/-! `setAluFlags` -/

@[simp] theorem setAluFlags_cfg (op : AluOp) (sf : Bool) (a : Word) (b : Word × Bool) : (setAluFlags op sf a b s).cfg = s.cfg := by unfold setAluFlags; split <;> rfl
@[simp] theorem setAluFlags_regs (op : AluOp) (sf : Bool) (a : Word) (b : Word × Bool) : (setAluFlags op sf a b s).regs = s.regs := by unfold setAluFlags; split <;> rfl
@[simp] theorem setAluFlags_pc (op : AluOp) (sf : Bool) (a : Word) (b : Word × Bool) : (setAluFlags op sf a b s).pc = s.pc := by unfold setAluFlags; split <;> rfl
@[simp] theorem setAluFlags_spsr (op : AluOp) (sf : Bool) (a : Word) (b : Word × Bool) : (setAluFlags op sf a b s).spsr = s.spsr := by unfold setAluFlags; split <;> rfl
@[simp] theorem setAluFlags_mem (op : AluOp) (sf : Bool) (a : Word) (b : Word × Bool) : (setAluFlags op sf a b s).mem = s.mem := by unfold setAluFlags; split <;> rfl
@[simp] theorem setAluFlags_cache (op : AluOp) (sf : Bool) (a : Word) (b : Word × Bool) : (setAluFlags op sf a b s).cache = s.cache := by unfold setAluFlags; split <;> rfl
@[simp] theorem setAluFlags_pipe (op : AluOp) (sf : Bool) (a : Word) (b : Word × Bool) : (setAluFlags op sf a b s).pipe = s.pipe := by unfold setAluFlags; split <;> rfl
@[simp] theorem setAluFlags_flushRequest (op : AluOp) (sf : Bool) (a : Word) (b : Word × Bool) : (setAluFlags op sf a b s).flushRequest = s.flushRequest := by unfold setAluFlags; split <;> rfl
@[simp] theorem setAluFlags_irq (op : AluOp) (sf : Bool) (a : Word) (b : Word × Bool) : (setAluFlags op sf a b s).irq = s.irq := by unfold setAluFlags; split <;> rfl
@[simp] theorem setAluFlags_lines (op : AluOp) (sf : Bool) (a : Word) (b : Word × Bool) : (setAluFlags op sf a b s).lines = s.lines := by unfold setAluFlags; split <;> rfl
@[simp] theorem setAluFlags_inputs (op : AluOp) (sf : Bool) (a : Word) (b : Word × Bool) : (setAluFlags op sf a b s).inputs = s.inputs := by unfold setAluFlags; split <;> rfl
@[simp] theorem setAluFlags_mul (op : AluOp) (sf : Bool) (a : Word) (b : Word × Bool) : (setAluFlags op sf a b s).mul = s.mul := by unfold setAluFlags; split <;> rfl
@[simp] theorem setAluFlags_cp (op : AluOp) (sf : Bool) (a : Word) (b : Word × Bool) : (setAluFlags op sf a b s).cp = s.cp := by unfold setAluFlags; split <;> rfl
@[simp] theorem setAluFlags_cpState (op : AluOp) (sf : Bool) (a : Word) (b : Word × Bool) : (setAluFlags op sf a b s).cpState = s.cpState := by unfold setAluFlags; split <;> rfl
@[simp] theorem setAluFlags_cpAnswers (op : AluOp) (sf : Bool) (a : Word) (b : Word × Bool) : (setAluFlags op sf a b s).cpAnswers = s.cpAnswers := by unfold setAluFlags; split <;> rfl
@[simp] theorem setAluFlags_swiAnswers (op : AluOp) (sf : Bool) (a : Word) (b : Word × Bool) : (setAluFlags op sf a b s).swiAnswers = s.swiAnswers := by unfold setAluFlags; split <;> rfl
@[simp] theorem setAluFlags_periphWrites (op : AluOp) (sf : Bool) (a : Word) (b : Word × Bool) : (setAluFlags op sf a b s).periphWrites = s.periphWrites := by unfold setAluFlags; split <;> rfl
@[simp] theorem setAluFlags_seq (op : AluOp) (sf : Bool) (a : Word) (b : Word × Bool) : (setAluFlags op sf a b s).seq = s.seq := by unfold setAluFlags; split <;> rfl
@[simp] theorem setAluFlags_pool (op : AluOp) (sf : Bool) (a : Word) (b : Word × Bool) : (setAluFlags op sf a b s).pool = s.pool := by unfold setAluFlags; split <;> rfl
@[simp] theorem setAluFlags_latches (op : AluOp) (sf : Bool) (a : Word) (b : Word × Bool) : (setAluFlags op sf a b s).latches = s.latches := by unfold setAluFlags; split <;> rfl
@[simp] theorem setAluFlags_bus (op : AluOp) (sf : Bool) (a : Word) (b : Word × Bool) : (setAluFlags op sf a b s).bus = s.bus := by unfold setAluFlags; split <;> rfl
@[simp] theorem setAluFlags_draws (op : AluOp) (sf : Bool) (a : Word) (b : Word × Bool) : (setAluFlags op sf a b s).draws = s.draws := by unfold setAluFlags; split <;> rfl

/-! `useMulUnit` -/

@[simp] theorem useMulUnit_cfg (g : Bool) (rm rs : Word) : (useMulUnit g rm rs s).cfg = s.cfg := rfl
@[simp] theorem useMulUnit_regs (g : Bool) (rm rs : Word) : (useMulUnit g rm rs s).regs = s.regs := rfl
@[simp] theorem useMulUnit_pc (g : Bool) (rm rs : Word) : (useMulUnit g rm rs s).pc = s.pc := rfl
@[simp] theorem useMulUnit_cpsr (g : Bool) (rm rs : Word) : (useMulUnit g rm rs s).cpsr = s.cpsr := rfl
@[simp] theorem useMulUnit_spsr (g : Bool) (rm rs : Word) : (useMulUnit g rm rs s).spsr = s.spsr := rfl
@[simp] theorem useMulUnit_mem (g : Bool) (rm rs : Word) : (useMulUnit g rm rs s).mem = s.mem := rfl
@[simp] theorem useMulUnit_cache (g : Bool) (rm rs : Word) : (useMulUnit g rm rs s).cache = s.cache := rfl
@[simp] theorem useMulUnit_pipe (g : Bool) (rm rs : Word) : (useMulUnit g rm rs s).pipe = s.pipe := rfl
@[simp] theorem useMulUnit_flushRequest (g : Bool) (rm rs : Word) : (useMulUnit g rm rs s).flushRequest = s.flushRequest := rfl
@[simp] theorem useMulUnit_irq (g : Bool) (rm rs : Word) : (useMulUnit g rm rs s).irq = s.irq := rfl
@[simp] theorem useMulUnit_lines (g : Bool) (rm rs : Word) : (useMulUnit g rm rs s).lines = s.lines := rfl
@[simp] theorem useMulUnit_inputs (g : Bool) (rm rs : Word) : (useMulUnit g rm rs s).inputs = s.inputs := rfl
@[simp] theorem useMulUnit_cp (g : Bool) (rm rs : Word) : (useMulUnit g rm rs s).cp = s.cp := rfl
@[simp] theorem useMulUnit_cpState (g : Bool) (rm rs : Word) : (useMulUnit g rm rs s).cpState = s.cpState := rfl
@[simp] theorem useMulUnit_cpAnswers (g : Bool) (rm rs : Word) : (useMulUnit g rm rs s).cpAnswers = s.cpAnswers := rfl
@[simp] theorem useMulUnit_swiAnswers (g : Bool) (rm rs : Word) : (useMulUnit g rm rs s).swiAnswers = s.swiAnswers := rfl
@[simp] theorem useMulUnit_periphWrites (g : Bool) (rm rs : Word) : (useMulUnit g rm rs s).periphWrites = s.periphWrites := rfl
@[simp] theorem useMulUnit_seq (g : Bool) (rm rs : Word) : (useMulUnit g rm rs s).seq = s.seq := rfl
@[simp] theorem useMulUnit_pool (g : Bool) (rm rs : Word) : (useMulUnit g rm rs s).pool = s.pool := rfl
@[simp] theorem useMulUnit_latches (g : Bool) (rm rs : Word) : (useMulUnit g rm rs s).latches = s.latches := rfl
@[simp] theorem useMulUnit_bus (g : Bool) (rm rs : Word) : (useMulUnit g rm rs s).bus = s.bus := rfl
@[simp] theorem useMulUnit_draws (g : Bool) (rm rs : Word) : (useMulUnit g rm rs s).draws = s.draws := rfl

/-! `setMulFlags` -/

@[simp] theorem setMulFlags_cfg (sf : Bool) (r : Word) : (setMulFlags sf r s).cfg = s.cfg := by unfold setMulFlags; split <;> rfl
@[simp] theorem setMulFlags_regs (sf : Bool) (r : Word) : (setMulFlags sf r s).regs = s.regs := by unfold setMulFlags; split <;> rfl
@[simp] theorem setMulFlags_pc (sf : Bool) (r : Word) : (setMulFlags sf r s).pc = s.pc := by unfold setMulFlags; split <;> rfl
@[simp] theorem setMulFlags_spsr (sf : Bool) (r : Word) : (setMulFlags sf r s).spsr = s.spsr := by unfold setMulFlags; split <;> rfl
@[simp] theorem setMulFlags_mem (sf : Bool) (r : Word) : (setMulFlags sf r s).mem = s.mem := by unfold setMulFlags; split <;> rfl
@[simp] theorem setMulFlags_cache (sf : Bool) (r : Word) : (setMulFlags sf r s).cache = s.cache := by unfold setMulFlags; split <;> rfl
@[simp] theorem setMulFlags_pipe (sf : Bool) (r : Word) : (setMulFlags sf r s).pipe = s.pipe := by unfold setMulFlags; split <;> rfl
@[simp] theorem setMulFlags_flushRequest (sf : Bool) (r : Word) : (setMulFlags sf r s).flushRequest = s.flushRequest := by unfold setMulFlags; split <;> rfl
@[simp] theorem setMulFlags_irq (sf : Bool) (r : Word) : (setMulFlags sf r s).irq = s.irq := by unfold setMulFlags; split <;> rfl
@[simp] theorem setMulFlags_lines (sf : Bool) (r : Word) : (setMulFlags sf r s).lines = s.lines := by unfold setMulFlags; split <;> rfl
@[simp] theorem setMulFlags_inputs (sf : Bool) (r : Word) : (setMulFlags sf r s).inputs = s.inputs := by unfold setMulFlags; split <;> rfl
@[simp] theorem setMulFlags_mul (sf : Bool) (r : Word) : (setMulFlags sf r s).mul = s.mul := by unfold setMulFlags; split <;> rfl
@[simp] theorem setMulFlags_cp (sf : Bool) (r : Word) : (setMulFlags sf r s).cp = s.cp := by unfold setMulFlags; split <;> rfl
@[simp] theorem setMulFlags_cpState (sf : Bool) (r : Word) : (setMulFlags sf r s).cpState = s.cpState := by unfold setMulFlags; split <;> rfl
@[simp] theorem setMulFlags_cpAnswers (sf : Bool) (r : Word) : (setMulFlags sf r s).cpAnswers = s.cpAnswers := by unfold setMulFlags; split <;> rfl
@[simp] theorem setMulFlags_swiAnswers (sf : Bool) (r : Word) : (setMulFlags sf r s).swiAnswers = s.swiAnswers := by unfold setMulFlags; split <;> rfl
@[simp] theorem setMulFlags_periphWrites (sf : Bool) (r : Word) : (setMulFlags sf r s).periphWrites = s.periphWrites := by unfold setMulFlags; split <;> rfl
@[simp] theorem setMulFlags_seq (sf : Bool) (r : Word) : (setMulFlags sf r s).seq = s.seq := by unfold setMulFlags; split <;> rfl
@[simp] theorem setMulFlags_pool (sf : Bool) (r : Word) : (setMulFlags sf r s).pool = s.pool := by unfold setMulFlags; split <;> rfl
@[simp] theorem setMulFlags_latches (sf : Bool) (r : Word) : (setMulFlags sf r s).latches = s.latches := by unfold setMulFlags; split <;> rfl
@[simp] theorem setMulFlags_bus (sf : Bool) (r : Word) : (setMulFlags sf r s).bus = s.bus := by unfold setMulFlags; split <;> rfl

/-! `setLongMulFlags` -/

@[simp] theorem setLongMulFlags_cfg (sf : Bool) (r : DWord) : (setLongMulFlags sf r s).cfg = s.cfg := by unfold setLongMulFlags; split <;> rfl
@[simp] theorem setLongMulFlags_regs (sf : Bool) (r : DWord) : (setLongMulFlags sf r s).regs = s.regs := by unfold setLongMulFlags; split <;> rfl
@[simp] theorem setLongMulFlags_pc (sf : Bool) (r : DWord) : (setLongMulFlags sf r s).pc = s.pc := by unfold setLongMulFlags; split <;> rfl
@[simp] theorem setLongMulFlags_spsr (sf : Bool) (r : DWord) : (setLongMulFlags sf r s).spsr = s.spsr := by unfold setLongMulFlags; split <;> rfl
@[simp] theorem setLongMulFlags_mem (sf : Bool) (r : DWord) : (setLongMulFlags sf r s).mem = s.mem := by unfold setLongMulFlags; split <;> rfl
@[simp] theorem setLongMulFlags_cache (sf : Bool) (r : DWord) : (setLongMulFlags sf r s).cache = s.cache := by unfold setLongMulFlags; split <;> rfl
@[simp] theorem setLongMulFlags_pipe (sf : Bool) (r : DWord) : (setLongMulFlags sf r s).pipe = s.pipe := by unfold setLongMulFlags; split <;> rfl
@[simp] theorem setLongMulFlags_flushRequest (sf : Bool) (r : DWord) : (setLongMulFlags sf r s).flushRequest = s.flushRequest := by unfold setLongMulFlags; split <;> rfl
@[simp] theorem setLongMulFlags_irq (sf : Bool) (r : DWord) : (setLongMulFlags sf r s).irq = s.irq := by unfold setLongMulFlags; split <;> rfl
@[simp] theorem setLongMulFlags_lines (sf : Bool) (r : DWord) : (setLongMulFlags sf r s).lines = s.lines := by unfold setLongMulFlags; split <;> rfl
@[simp] theorem setLongMulFlags_inputs (sf : Bool) (r : DWord) : (setLongMulFlags sf r s).inputs = s.inputs := by unfold setLongMulFlags; split <;> rfl
@[simp] theorem setLongMulFlags_mul (sf : Bool) (r : DWord) : (setLongMulFlags sf r s).mul = s.mul := by unfold setLongMulFlags; split <;> rfl
@[simp] theorem setLongMulFlags_cp (sf : Bool) (r : DWord) : (setLongMulFlags sf r s).cp = s.cp := by unfold setLongMulFlags; split <;> rfl
@[simp] theorem setLongMulFlags_cpState (sf : Bool) (r : DWord) : (setLongMulFlags sf r s).cpState = s.cpState := by unfold setLongMulFlags; split <;> rfl
@[simp] theorem setLongMulFlags_cpAnswers (sf : Bool) (r : DWord) : (setLongMulFlags sf r s).cpAnswers = s.cpAnswers := by unfold setLongMulFlags; split <;> rfl
@[simp] theorem setLongMulFlags_swiAnswers (sf : Bool) (r : DWord) : (setLongMulFlags sf r s).swiAnswers = s.swiAnswers := by unfold setLongMulFlags; split <;> rfl
@[simp] theorem setLongMulFlags_periphWrites (sf : Bool) (r : DWord) : (setLongMulFlags sf r s).periphWrites = s.periphWrites := by unfold setLongMulFlags; split <;> rfl
@[simp] theorem setLongMulFlags_seq (sf : Bool) (r : DWord) : (setLongMulFlags sf r s).seq = s.seq := by unfold setLongMulFlags; split <;> rfl
@[simp] theorem setLongMulFlags_pool (sf : Bool) (r : DWord) : (setLongMulFlags sf r s).pool = s.pool := by unfold setLongMulFlags; split <;> rfl
@[simp] theorem setLongMulFlags_latches (sf : Bool) (r : DWord) : (setLongMulFlags sf r s).latches = s.latches := by unfold setLongMulFlags; split <;> rfl
@[simp] theorem setLongMulFlags_bus (sf : Bool) (r : DWord) : (setLongMulFlags sf r s).bus = s.bus := by unfold setLongMulFlags; split <;> rfl

/-! `driveRequest` -/

@[simp] theorem driveRequest_cfg (w : Word) : (driveRequest w s).cfg = s.cfg := rfl
@[simp] theorem driveRequest_regs (w : Word) : (driveRequest w s).regs = s.regs := rfl
@[simp] theorem driveRequest_pc (w : Word) : (driveRequest w s).pc = s.pc := rfl
@[simp] theorem driveRequest_cpsr (w : Word) : (driveRequest w s).cpsr = s.cpsr := rfl
@[simp] theorem driveRequest_spsr (w : Word) : (driveRequest w s).spsr = s.spsr := rfl
@[simp] theorem driveRequest_mem (w : Word) : (driveRequest w s).mem = s.mem := rfl
@[simp] theorem driveRequest_cache (w : Word) : (driveRequest w s).cache = s.cache := rfl
@[simp] theorem driveRequest_pipe (w : Word) : (driveRequest w s).pipe = s.pipe := rfl
@[simp] theorem driveRequest_flushRequest (w : Word) : (driveRequest w s).flushRequest = s.flushRequest := rfl
@[simp] theorem driveRequest_irq (w : Word) : (driveRequest w s).irq = s.irq := rfl
@[simp] theorem driveRequest_lines (w : Word) : (driveRequest w s).lines = s.lines := rfl
@[simp] theorem driveRequest_inputs (w : Word) : (driveRequest w s).inputs = s.inputs := rfl
@[simp] theorem driveRequest_mul (w : Word) : (driveRequest w s).mul = s.mul := rfl
@[simp] theorem driveRequest_cpState (w : Word) : (driveRequest w s).cpState = s.cpState := rfl
@[simp] theorem driveRequest_cpAnswers (w : Word) : (driveRequest w s).cpAnswers = s.cpAnswers := rfl
@[simp] theorem driveRequest_swiAnswers (w : Word) : (driveRequest w s).swiAnswers = s.swiAnswers := rfl
@[simp] theorem driveRequest_periphWrites (w : Word) : (driveRequest w s).periphWrites = s.periphWrites := rfl
@[simp] theorem driveRequest_seq (w : Word) : (driveRequest w s).seq = s.seq := rfl
@[simp] theorem driveRequest_pool (w : Word) : (driveRequest w s).pool = s.pool := rfl
@[simp] theorem driveRequest_latches (w : Word) : (driveRequest w s).latches = s.latches := rfl
@[simp] theorem driveRequest_bus (w : Word) : (driveRequest w s).bus = s.bus := rfl
@[simp] theorem driveRequest_draws (w : Word) : (driveRequest w s).draws = s.draws := rfl

/-! `takeReply` -/

@[simp] theorem takeReply_cfg (r : CpReply) : (takeReply r s).cfg = s.cfg := rfl
@[simp] theorem takeReply_regs (r : CpReply) : (takeReply r s).regs = s.regs := rfl
@[simp] theorem takeReply_pc (r : CpReply) : (takeReply r s).pc = s.pc := rfl
@[simp] theorem takeReply_cpsr (r : CpReply) : (takeReply r s).cpsr = s.cpsr := rfl
@[simp] theorem takeReply_spsr (r : CpReply) : (takeReply r s).spsr = s.spsr := rfl
@[simp] theorem takeReply_mem (r : CpReply) : (takeReply r s).mem = s.mem := rfl
@[simp] theorem takeReply_cache (r : CpReply) : (takeReply r s).cache = s.cache := rfl
@[simp] theorem takeReply_pipe (r : CpReply) : (takeReply r s).pipe = s.pipe := rfl
@[simp] theorem takeReply_flushRequest (r : CpReply) : (takeReply r s).flushRequest = s.flushRequest := rfl
@[simp] theorem takeReply_irq (r : CpReply) : (takeReply r s).irq = s.irq := rfl
@[simp] theorem takeReply_lines (r : CpReply) : (takeReply r s).lines = s.lines := rfl
@[simp] theorem takeReply_inputs (r : CpReply) : (takeReply r s).inputs = s.inputs := rfl
@[simp] theorem takeReply_mul (r : CpReply) : (takeReply r s).mul = s.mul := rfl
@[simp] theorem takeReply_cpState (r : CpReply) : (takeReply r s).cpState = s.cpState := rfl
@[simp] theorem takeReply_cpAnswers (r : CpReply) : (takeReply r s).cpAnswers = s.cpAnswers := rfl
@[simp] theorem takeReply_swiAnswers (r : CpReply) : (takeReply r s).swiAnswers = s.swiAnswers := rfl
@[simp] theorem takeReply_periphWrites (r : CpReply) : (takeReply r s).periphWrites = s.periphWrites := rfl
@[simp] theorem takeReply_seq (r : CpReply) : (takeReply r s).seq = s.seq := rfl
@[simp] theorem takeReply_pool (r : CpReply) : (takeReply r s).pool = s.pool := rfl
@[simp] theorem takeReply_latches (r : CpReply) : (takeReply r s).latches = s.latches := rfl
@[simp] theorem takeReply_bus (r : CpReply) : (takeReply r s).bus = s.bus := rfl
@[simp] theorem takeReply_draws (r : CpReply) : (takeReply r s).draws = s.draws := rfl

/-! `cyclePlugIn` -/

@[simp] theorem cyclePlugIn_cfg (n : Fin 16) (b : Bool) : (cyclePlugIn n b s).cfg = s.cfg := rfl
@[simp] theorem cyclePlugIn_regs (n : Fin 16) (b : Bool) : (cyclePlugIn n b s).regs = s.regs := rfl
@[simp] theorem cyclePlugIn_pc (n : Fin 16) (b : Bool) : (cyclePlugIn n b s).pc = s.pc := rfl
@[simp] theorem cyclePlugIn_cpsr (n : Fin 16) (b : Bool) : (cyclePlugIn n b s).cpsr = s.cpsr := rfl
@[simp] theorem cyclePlugIn_spsr (n : Fin 16) (b : Bool) : (cyclePlugIn n b s).spsr = s.spsr := rfl
@[simp] theorem cyclePlugIn_mem (n : Fin 16) (b : Bool) : (cyclePlugIn n b s).mem = s.mem := rfl
@[simp] theorem cyclePlugIn_cache (n : Fin 16) (b : Bool) : (cyclePlugIn n b s).cache = s.cache := rfl
@[simp] theorem cyclePlugIn_pipe (n : Fin 16) (b : Bool) : (cyclePlugIn n b s).pipe = s.pipe := rfl
@[simp] theorem cyclePlugIn_flushRequest (n : Fin 16) (b : Bool) : (cyclePlugIn n b s).flushRequest = s.flushRequest := rfl
@[simp] theorem cyclePlugIn_irq (n : Fin 16) (b : Bool) : (cyclePlugIn n b s).irq = s.irq := rfl
@[simp] theorem cyclePlugIn_lines (n : Fin 16) (b : Bool) : (cyclePlugIn n b s).lines = s.lines := rfl
@[simp] theorem cyclePlugIn_inputs (n : Fin 16) (b : Bool) : (cyclePlugIn n b s).inputs = s.inputs := rfl
@[simp] theorem cyclePlugIn_mul (n : Fin 16) (b : Bool) : (cyclePlugIn n b s).mul = s.mul := rfl
@[simp] theorem cyclePlugIn_cpAnswers (n : Fin 16) (b : Bool) : (cyclePlugIn n b s).cpAnswers = s.cpAnswers := rfl
@[simp] theorem cyclePlugIn_swiAnswers (n : Fin 16) (b : Bool) : (cyclePlugIn n b s).swiAnswers = s.swiAnswers := rfl
@[simp] theorem cyclePlugIn_periphWrites (n : Fin 16) (b : Bool) : (cyclePlugIn n b s).periphWrites = s.periphWrites := rfl
@[simp] theorem cyclePlugIn_seq (n : Fin 16) (b : Bool) : (cyclePlugIn n b s).seq = s.seq := rfl
@[simp] theorem cyclePlugIn_pool (n : Fin 16) (b : Bool) : (cyclePlugIn n b s).pool = s.pool := rfl
@[simp] theorem cyclePlugIn_latches (n : Fin 16) (b : Bool) : (cyclePlugIn n b s).latches = s.latches := rfl
@[simp] theorem cyclePlugIn_bus (n : Fin 16) (b : Bool) : (cyclePlugIn n b s).bus = s.bus := rfl
@[simp] theorem cyclePlugIn_draws (n : Fin 16) (b : Bool) : (cyclePlugIn n b s).draws = s.draws := rfl

/-! `endCpCycle` -/

@[simp] theorem endCpCycle_cfg : (endCpCycle s).cfg = s.cfg := rfl
@[simp] theorem endCpCycle_regs : (endCpCycle s).regs = s.regs := rfl
@[simp] theorem endCpCycle_pc : (endCpCycle s).pc = s.pc := rfl
@[simp] theorem endCpCycle_cpsr : (endCpCycle s).cpsr = s.cpsr := rfl
@[simp] theorem endCpCycle_spsr : (endCpCycle s).spsr = s.spsr := rfl
@[simp] theorem endCpCycle_mem : (endCpCycle s).mem = s.mem := rfl
@[simp] theorem endCpCycle_cache : (endCpCycle s).cache = s.cache := rfl
@[simp] theorem endCpCycle_pipe : (endCpCycle s).pipe = s.pipe := rfl
@[simp] theorem endCpCycle_flushRequest : (endCpCycle s).flushRequest = s.flushRequest := rfl
@[simp] theorem endCpCycle_irq : (endCpCycle s).irq = s.irq := rfl
@[simp] theorem endCpCycle_lines : (endCpCycle s).lines = s.lines := rfl
@[simp] theorem endCpCycle_inputs : (endCpCycle s).inputs = s.inputs := rfl
@[simp] theorem endCpCycle_mul : (endCpCycle s).mul = s.mul := rfl
@[simp] theorem endCpCycle_cpState : (endCpCycle s).cpState = s.cpState := rfl
@[simp] theorem endCpCycle_cpAnswers : (endCpCycle s).cpAnswers = s.cpAnswers := rfl
@[simp] theorem endCpCycle_swiAnswers : (endCpCycle s).swiAnswers = s.swiAnswers := rfl
@[simp] theorem endCpCycle_periphWrites : (endCpCycle s).periphWrites = s.periphWrites := rfl
@[simp] theorem endCpCycle_seq : (endCpCycle s).seq = s.seq := rfl
@[simp] theorem endCpCycle_pool : (endCpCycle s).pool = s.pool := rfl
@[simp] theorem endCpCycle_latches : (endCpCycle s).latches = s.latches := rfl
@[simp] theorem endCpCycle_bus : (endCpCycle s).bus = s.bus := rfl
@[simp] theorem endCpCycle_draws : (endCpCycle s).draws = s.draws := rfl

/-! `answerCycle` -/

@[simp] theorem answerCycle_cfg (n : Fin 16) : (answerCycle n s).cfg = s.cfg := by unfold answerCycle; split <;> rfl
@[simp] theorem answerCycle_regs (n : Fin 16) : (answerCycle n s).regs = s.regs := by unfold answerCycle; split <;> rfl
@[simp] theorem answerCycle_pc (n : Fin 16) : (answerCycle n s).pc = s.pc := by unfold answerCycle; split <;> rfl
@[simp] theorem answerCycle_cpsr (n : Fin 16) : (answerCycle n s).cpsr = s.cpsr := by unfold answerCycle; split <;> rfl
@[simp] theorem answerCycle_spsr (n : Fin 16) : (answerCycle n s).spsr = s.spsr := by unfold answerCycle; split <;> rfl
@[simp] theorem answerCycle_mem (n : Fin 16) : (answerCycle n s).mem = s.mem := by unfold answerCycle; split <;> rfl
@[simp] theorem answerCycle_cache (n : Fin 16) : (answerCycle n s).cache = s.cache := by unfold answerCycle; split <;> rfl
@[simp] theorem answerCycle_pipe (n : Fin 16) : (answerCycle n s).pipe = s.pipe := by unfold answerCycle; split <;> rfl
@[simp] theorem answerCycle_flushRequest (n : Fin 16) : (answerCycle n s).flushRequest = s.flushRequest := by unfold answerCycle; split <;> rfl
@[simp] theorem answerCycle_irq (n : Fin 16) : (answerCycle n s).irq = s.irq := by unfold answerCycle; split <;> rfl
@[simp] theorem answerCycle_lines (n : Fin 16) : (answerCycle n s).lines = s.lines := by unfold answerCycle; split <;> rfl
@[simp] theorem answerCycle_inputs (n : Fin 16) : (answerCycle n s).inputs = s.inputs := by unfold answerCycle; split <;> rfl
@[simp] theorem answerCycle_mul (n : Fin 16) : (answerCycle n s).mul = s.mul := by unfold answerCycle; split <;> rfl
@[simp] theorem answerCycle_cpAnswers (n : Fin 16) : (answerCycle n s).cpAnswers = s.cpAnswers := by unfold answerCycle; split <;> rfl
@[simp] theorem answerCycle_swiAnswers (n : Fin 16) : (answerCycle n s).swiAnswers = s.swiAnswers := by unfold answerCycle; split <;> rfl
@[simp] theorem answerCycle_periphWrites (n : Fin 16) : (answerCycle n s).periphWrites = s.periphWrites := by unfold answerCycle; split <;> rfl
@[simp] theorem answerCycle_seq (n : Fin 16) : (answerCycle n s).seq = s.seq := by unfold answerCycle; split <;> rfl
@[simp] theorem answerCycle_pool (n : Fin 16) : (answerCycle n s).pool = s.pool := by unfold answerCycle; split <;> rfl
@[simp] theorem answerCycle_latches (n : Fin 16) : (answerCycle n s).latches = s.latches := by unfold answerCycle; split <;> rfl
@[simp] theorem answerCycle_bus (n : Fin 16) : (answerCycle n s).bus = s.bus := by unfold answerCycle; split <;> rfl
@[simp] theorem answerCycle_draws (n : Fin 16) : (answerCycle n s).draws = s.draws := by unfold answerCycle; split <;> rfl

/-! `drivenLines` -/

@[simp] theorem drivenLines_cfg (n : Fin 16) : ((drivenLines n s).2).cfg = s.cfg := by unfold drivenLines; split <;> (try split) <;> rfl
@[simp] theorem drivenLines_regs (n : Fin 16) : ((drivenLines n s).2).regs = s.regs := by unfold drivenLines; split <;> (try split) <;> rfl
@[simp] theorem drivenLines_pc (n : Fin 16) : ((drivenLines n s).2).pc = s.pc := by unfold drivenLines; split <;> (try split) <;> rfl
@[simp] theorem drivenLines_cpsr (n : Fin 16) : ((drivenLines n s).2).cpsr = s.cpsr := by unfold drivenLines; split <;> (try split) <;> rfl
@[simp] theorem drivenLines_spsr (n : Fin 16) : ((drivenLines n s).2).spsr = s.spsr := by unfold drivenLines; split <;> (try split) <;> rfl
@[simp] theorem drivenLines_mem (n : Fin 16) : ((drivenLines n s).2).mem = s.mem := by unfold drivenLines; split <;> (try split) <;> rfl
@[simp] theorem drivenLines_cache (n : Fin 16) : ((drivenLines n s).2).cache = s.cache := by unfold drivenLines; split <;> (try split) <;> rfl
@[simp] theorem drivenLines_pipe (n : Fin 16) : ((drivenLines n s).2).pipe = s.pipe := by unfold drivenLines; split <;> (try split) <;> rfl
@[simp] theorem drivenLines_flushRequest (n : Fin 16) : ((drivenLines n s).2).flushRequest = s.flushRequest := by unfold drivenLines; split <;> (try split) <;> rfl
@[simp] theorem drivenLines_irq (n : Fin 16) : ((drivenLines n s).2).irq = s.irq := by unfold drivenLines; split <;> (try split) <;> rfl
@[simp] theorem drivenLines_lines (n : Fin 16) : ((drivenLines n s).2).lines = s.lines := by unfold drivenLines; split <;> (try split) <;> rfl
@[simp] theorem drivenLines_inputs (n : Fin 16) : ((drivenLines n s).2).inputs = s.inputs := by unfold drivenLines; split <;> (try split) <;> rfl
@[simp] theorem drivenLines_mul (n : Fin 16) : ((drivenLines n s).2).mul = s.mul := by unfold drivenLines; split <;> (try split) <;> rfl
@[simp] theorem drivenLines_cp (n : Fin 16) : ((drivenLines n s).2).cp = s.cp := by unfold drivenLines; split <;> (try split) <;> rfl
@[simp] theorem drivenLines_cpState (n : Fin 16) : ((drivenLines n s).2).cpState = s.cpState := by unfold drivenLines; split <;> (try split) <;> rfl
@[simp] theorem drivenLines_swiAnswers (n : Fin 16) : ((drivenLines n s).2).swiAnswers = s.swiAnswers := by unfold drivenLines; split <;> (try split) <;> rfl
@[simp] theorem drivenLines_periphWrites (n : Fin 16) : ((drivenLines n s).2).periphWrites = s.periphWrites := by unfold drivenLines; split <;> (try split) <;> rfl
@[simp] theorem drivenLines_seq (n : Fin 16) : ((drivenLines n s).2).seq = s.seq := by unfold drivenLines; split <;> (try split) <;> rfl
@[simp] theorem drivenLines_pool (n : Fin 16) : ((drivenLines n s).2).pool = s.pool := by unfold drivenLines; split <;> (try split) <;> rfl
@[simp] theorem drivenLines_latches (n : Fin 16) : ((drivenLines n s).2).latches = s.latches := by unfold drivenLines; split <;> (try split) <;> rfl
@[simp] theorem drivenLines_bus (n : Fin 16) : ((drivenLines n s).2).bus = s.bus := by unfold drivenLines; split <;> (try split) <;> rfl

/-! `look` -/

@[simp] theorem look_cfg (n : Fin 16) : (look n s).cfg = s.cfg := by simp [look]
@[simp] theorem look_regs (n : Fin 16) : (look n s).regs = s.regs := by simp [look]
@[simp] theorem look_pc (n : Fin 16) : (look n s).pc = s.pc := by simp [look]
@[simp] theorem look_cpsr (n : Fin 16) : (look n s).cpsr = s.cpsr := by simp [look]
@[simp] theorem look_spsr (n : Fin 16) : (look n s).spsr = s.spsr := by simp [look]
@[simp] theorem look_mem (n : Fin 16) : (look n s).mem = s.mem := by simp [look]
@[simp] theorem look_cache (n : Fin 16) : (look n s).cache = s.cache := by simp [look]
@[simp] theorem look_pipe (n : Fin 16) : (look n s).pipe = s.pipe := by simp [look]
@[simp] theorem look_flushRequest (n : Fin 16) : (look n s).flushRequest = s.flushRequest := by simp [look]
@[simp] theorem look_irq (n : Fin 16) : (look n s).irq = s.irq := by simp [look]
@[simp] theorem look_lines (n : Fin 16) : (look n s).lines = s.lines := by simp [look]
@[simp] theorem look_inputs (n : Fin 16) : (look n s).inputs = s.inputs := by simp [look]
@[simp] theorem look_mul (n : Fin 16) : (look n s).mul = s.mul := by simp [look]
@[simp] theorem look_cpState (n : Fin 16) : (look n s).cpState = s.cpState := by simp [look]
@[simp] theorem look_swiAnswers (n : Fin 16) : (look n s).swiAnswers = s.swiAnswers := by simp [look]
@[simp] theorem look_periphWrites (n : Fin 16) : (look n s).periphWrites = s.periphWrites := by simp [look]
@[simp] theorem look_seq (n : Fin 16) : (look n s).seq = s.seq := by simp [look]
@[simp] theorem look_pool (n : Fin 16) : (look n s).pool = s.pool := by simp [look]
@[simp] theorem look_latches (n : Fin 16) : (look n s).latches = s.latches := by simp [look]
@[simp] theorem look_bus (n : Fin 16) : (look n s).bus = s.bus := by simp [look]

/-! `driveTransfer` -/

@[simp] theorem driveTransfer_cfg (v : Option Word) : (driveTransfer v s).cfg = s.cfg := rfl
@[simp] theorem driveTransfer_regs (v : Option Word) : (driveTransfer v s).regs = s.regs := rfl
@[simp] theorem driveTransfer_pc (v : Option Word) : (driveTransfer v s).pc = s.pc := rfl
@[simp] theorem driveTransfer_cpsr (v : Option Word) : (driveTransfer v s).cpsr = s.cpsr := rfl
@[simp] theorem driveTransfer_spsr (v : Option Word) : (driveTransfer v s).spsr = s.spsr := rfl
@[simp] theorem driveTransfer_mem (v : Option Word) : (driveTransfer v s).mem = s.mem := rfl
@[simp] theorem driveTransfer_cache (v : Option Word) : (driveTransfer v s).cache = s.cache := rfl
@[simp] theorem driveTransfer_pipe (v : Option Word) : (driveTransfer v s).pipe = s.pipe := rfl
@[simp] theorem driveTransfer_flushRequest (v : Option Word) : (driveTransfer v s).flushRequest = s.flushRequest := rfl
@[simp] theorem driveTransfer_irq (v : Option Word) : (driveTransfer v s).irq = s.irq := rfl
@[simp] theorem driveTransfer_lines (v : Option Word) : (driveTransfer v s).lines = s.lines := rfl
@[simp] theorem driveTransfer_inputs (v : Option Word) : (driveTransfer v s).inputs = s.inputs := rfl
@[simp] theorem driveTransfer_mul (v : Option Word) : (driveTransfer v s).mul = s.mul := rfl
@[simp] theorem driveTransfer_cpState (v : Option Word) : (driveTransfer v s).cpState = s.cpState := rfl
@[simp] theorem driveTransfer_cpAnswers (v : Option Word) : (driveTransfer v s).cpAnswers = s.cpAnswers := rfl
@[simp] theorem driveTransfer_swiAnswers (v : Option Word) : (driveTransfer v s).swiAnswers = s.swiAnswers := rfl
@[simp] theorem driveTransfer_periphWrites (v : Option Word) : (driveTransfer v s).periphWrites = s.periphWrites := rfl
@[simp] theorem driveTransfer_seq (v : Option Word) : (driveTransfer v s).seq = s.seq := rfl
@[simp] theorem driveTransfer_pool (v : Option Word) : (driveTransfer v s).pool = s.pool := rfl
@[simp] theorem driveTransfer_latches (v : Option Word) : (driveTransfer v s).latches = s.latches := rfl
@[simp] theorem driveTransfer_bus (v : Option Word) : (driveTransfer v s).bus = s.bus := rfl
@[simp] theorem driveTransfer_draws (v : Option Word) : (driveTransfer v s).draws = s.draws := rfl

/-! `moveWord` -/

@[simp] theorem moveWord_cfg (n : Fin 16) (v : Option Word) : (moveWord n v s).cfg = s.cfg := by simp [moveWord]
@[simp] theorem moveWord_regs (n : Fin 16) (v : Option Word) : (moveWord n v s).regs = s.regs := by simp [moveWord]
@[simp] theorem moveWord_pc (n : Fin 16) (v : Option Word) : (moveWord n v s).pc = s.pc := by simp [moveWord]
@[simp] theorem moveWord_cpsr (n : Fin 16) (v : Option Word) : (moveWord n v s).cpsr = s.cpsr := by simp [moveWord]
@[simp] theorem moveWord_spsr (n : Fin 16) (v : Option Word) : (moveWord n v s).spsr = s.spsr := by simp [moveWord]
@[simp] theorem moveWord_mem (n : Fin 16) (v : Option Word) : (moveWord n v s).mem = s.mem := by simp [moveWord]
@[simp] theorem moveWord_cache (n : Fin 16) (v : Option Word) : (moveWord n v s).cache = s.cache := by simp [moveWord]
@[simp] theorem moveWord_pipe (n : Fin 16) (v : Option Word) : (moveWord n v s).pipe = s.pipe := by simp [moveWord]
@[simp] theorem moveWord_flushRequest (n : Fin 16) (v : Option Word) : (moveWord n v s).flushRequest = s.flushRequest := by simp [moveWord]
@[simp] theorem moveWord_irq (n : Fin 16) (v : Option Word) : (moveWord n v s).irq = s.irq := by simp [moveWord]
@[simp] theorem moveWord_lines (n : Fin 16) (v : Option Word) : (moveWord n v s).lines = s.lines := by simp [moveWord]
@[simp] theorem moveWord_inputs (n : Fin 16) (v : Option Word) : (moveWord n v s).inputs = s.inputs := by simp [moveWord]
@[simp] theorem moveWord_mul (n : Fin 16) (v : Option Word) : (moveWord n v s).mul = s.mul := by simp [moveWord]
@[simp] theorem moveWord_cpAnswers (n : Fin 16) (v : Option Word) : (moveWord n v s).cpAnswers = s.cpAnswers := by simp [moveWord]
@[simp] theorem moveWord_swiAnswers (n : Fin 16) (v : Option Word) : (moveWord n v s).swiAnswers = s.swiAnswers := by simp [moveWord]
@[simp] theorem moveWord_periphWrites (n : Fin 16) (v : Option Word) : (moveWord n v s).periphWrites = s.periphWrites := by simp [moveWord]
@[simp] theorem moveWord_seq (n : Fin 16) (v : Option Word) : (moveWord n v s).seq = s.seq := by simp [moveWord]
@[simp] theorem moveWord_pool (n : Fin 16) (v : Option Word) : (moveWord n v s).pool = s.pool := by simp [moveWord]
@[simp] theorem moveWord_latches (n : Fin 16) (v : Option Word) : (moveWord n v s).latches = s.latches := by simp [moveWord]
@[simp] theorem moveWord_bus (n : Fin 16) (v : Option Word) : (moveWord n v s).bus = s.bus := by simp [moveWord]
@[simp] theorem moveWord_draws (n : Fin 16) (v : Option Word) : (moveWord n v s).draws = s.draws := by simp [moveWord]

/-! `reply` -/

@[simp] theorem reply_cfg (n : Fin 16) : ((reply n s).2).cfg = s.cfg := by unfold reply; split <;> simp
@[simp] theorem reply_regs (n : Fin 16) : ((reply n s).2).regs = s.regs := by unfold reply; split <;> simp
@[simp] theorem reply_pc (n : Fin 16) : ((reply n s).2).pc = s.pc := by unfold reply; split <;> simp
@[simp] theorem reply_cpsr (n : Fin 16) : ((reply n s).2).cpsr = s.cpsr := by unfold reply; split <;> simp
@[simp] theorem reply_spsr (n : Fin 16) : ((reply n s).2).spsr = s.spsr := by unfold reply; split <;> simp
@[simp] theorem reply_mem (n : Fin 16) : ((reply n s).2).mem = s.mem := by unfold reply; split <;> simp
@[simp] theorem reply_cache (n : Fin 16) : ((reply n s).2).cache = s.cache := by unfold reply; split <;> simp
@[simp] theorem reply_pipe (n : Fin 16) : ((reply n s).2).pipe = s.pipe := by unfold reply; split <;> simp
@[simp] theorem reply_flushRequest (n : Fin 16) : ((reply n s).2).flushRequest = s.flushRequest := by unfold reply; split <;> simp
@[simp] theorem reply_irq (n : Fin 16) : ((reply n s).2).irq = s.irq := by unfold reply; split <;> simp
@[simp] theorem reply_lines (n : Fin 16) : ((reply n s).2).lines = s.lines := by unfold reply; split <;> simp
@[simp] theorem reply_inputs (n : Fin 16) : ((reply n s).2).inputs = s.inputs := by unfold reply; split <;> simp
@[simp] theorem reply_mul (n : Fin 16) : ((reply n s).2).mul = s.mul := by unfold reply; split <;> simp
@[simp] theorem reply_cpState (n : Fin 16) : ((reply n s).2).cpState = s.cpState := by unfold reply; split <;> simp
@[simp] theorem reply_swiAnswers (n : Fin 16) : ((reply n s).2).swiAnswers = s.swiAnswers := by unfold reply; split <;> simp
@[simp] theorem reply_periphWrites (n : Fin 16) : ((reply n s).2).periphWrites = s.periphWrites := by unfold reply; split <;> simp
@[simp] theorem reply_seq (n : Fin 16) : ((reply n s).2).seq = s.seq := by unfold reply; split <;> simp
@[simp] theorem reply_pool (n : Fin 16) : ((reply n s).2).pool = s.pool := by unfold reply; split <;> simp
@[simp] theorem reply_latches (n : Fin 16) : ((reply n s).2).latches = s.latches := by unfold reply; split <;> simp
@[simp] theorem reply_bus (n : Fin 16) : ((reply n s).2).bus = s.bus := by unfold reply; split <;> simp

/-! `ask` -/

@[simp] theorem ask_cfg (n : Fin 16) (w : Word) : ((ask n w s).2).cfg = s.cfg := by simp [ask]
@[simp] theorem ask_regs (n : Fin 16) (w : Word) : ((ask n w s).2).regs = s.regs := by simp [ask]
@[simp] theorem ask_pc (n : Fin 16) (w : Word) : ((ask n w s).2).pc = s.pc := by simp [ask]
@[simp] theorem ask_cpsr (n : Fin 16) (w : Word) : ((ask n w s).2).cpsr = s.cpsr := by simp [ask]
@[simp] theorem ask_spsr (n : Fin 16) (w : Word) : ((ask n w s).2).spsr = s.spsr := by simp [ask]
@[simp] theorem ask_mem (n : Fin 16) (w : Word) : ((ask n w s).2).mem = s.mem := by simp [ask]
@[simp] theorem ask_cache (n : Fin 16) (w : Word) : ((ask n w s).2).cache = s.cache := by simp [ask]
@[simp] theorem ask_pipe (n : Fin 16) (w : Word) : ((ask n w s).2).pipe = s.pipe := by simp [ask]
@[simp] theorem ask_flushRequest (n : Fin 16) (w : Word) : ((ask n w s).2).flushRequest = s.flushRequest := by simp [ask]
@[simp] theorem ask_irq (n : Fin 16) (w : Word) : ((ask n w s).2).irq = s.irq := by simp [ask]
@[simp] theorem ask_lines (n : Fin 16) (w : Word) : ((ask n w s).2).lines = s.lines := by simp [ask]
@[simp] theorem ask_inputs (n : Fin 16) (w : Word) : ((ask n w s).2).inputs = s.inputs := by simp [ask]
@[simp] theorem ask_mul (n : Fin 16) (w : Word) : ((ask n w s).2).mul = s.mul := by simp [ask]
@[simp] theorem ask_swiAnswers (n : Fin 16) (w : Word) : ((ask n w s).2).swiAnswers = s.swiAnswers := by simp [ask]
@[simp] theorem ask_periphWrites (n : Fin 16) (w : Word) : ((ask n w s).2).periphWrites = s.periphWrites := by simp [ask]
@[simp] theorem ask_seq (n : Fin 16) (w : Word) : ((ask n w s).2).seq = s.seq := by simp [ask]
@[simp] theorem ask_pool (n : Fin 16) (w : Word) : ((ask n w s).2).pool = s.pool := by simp [ask]
@[simp] theorem ask_latches (n : Fin 16) (w : Word) : ((ask n w s).2).latches = s.latches := by simp [ask]
@[simp] theorem ask_bus (n : Fin 16) (w : Word) : ((ask n w s).2).bus = s.bus := by simp [ask]

/-! `endHandshake` -/

@[simp] theorem endHandshake_cfg (r : CpReply) (n : Fin 16) (w : Word) : (endHandshake r n w s).cfg = s.cfg := by simp [endHandshake]
@[simp] theorem endHandshake_regs (r : CpReply) (n : Fin 16) (w : Word) : (endHandshake r n w s).regs = s.regs := by simp [endHandshake]
@[simp] theorem endHandshake_pc (r : CpReply) (n : Fin 16) (w : Word) : (endHandshake r n w s).pc = s.pc := by simp [endHandshake]
@[simp] theorem endHandshake_cpsr (r : CpReply) (n : Fin 16) (w : Word) : (endHandshake r n w s).cpsr = s.cpsr := by simp [endHandshake]
@[simp] theorem endHandshake_spsr (r : CpReply) (n : Fin 16) (w : Word) : (endHandshake r n w s).spsr = s.spsr := by simp [endHandshake]
@[simp] theorem endHandshake_mem (r : CpReply) (n : Fin 16) (w : Word) : (endHandshake r n w s).mem = s.mem := by simp [endHandshake]
@[simp] theorem endHandshake_cache (r : CpReply) (n : Fin 16) (w : Word) : (endHandshake r n w s).cache = s.cache := by simp [endHandshake]
@[simp] theorem endHandshake_pipe (r : CpReply) (n : Fin 16) (w : Word) : (endHandshake r n w s).pipe = s.pipe := by simp [endHandshake]
@[simp] theorem endHandshake_flushRequest (r : CpReply) (n : Fin 16) (w : Word) : (endHandshake r n w s).flushRequest = s.flushRequest := by simp [endHandshake]
@[simp] theorem endHandshake_irq (r : CpReply) (n : Fin 16) (w : Word) : (endHandshake r n w s).irq = s.irq := by simp [endHandshake]
@[simp] theorem endHandshake_lines (r : CpReply) (n : Fin 16) (w : Word) : (endHandshake r n w s).lines = s.lines := by simp [endHandshake]
@[simp] theorem endHandshake_inputs (r : CpReply) (n : Fin 16) (w : Word) : (endHandshake r n w s).inputs = s.inputs := by simp [endHandshake]
@[simp] theorem endHandshake_mul (r : CpReply) (n : Fin 16) (w : Word) : (endHandshake r n w s).mul = s.mul := by simp [endHandshake]
@[simp] theorem endHandshake_swiAnswers (r : CpReply) (n : Fin 16) (w : Word) : (endHandshake r n w s).swiAnswers = s.swiAnswers := by simp [endHandshake]
@[simp] theorem endHandshake_periphWrites (r : CpReply) (n : Fin 16) (w : Word) : (endHandshake r n w s).periphWrites = s.periphWrites := by simp [endHandshake]
@[simp] theorem endHandshake_seq (r : CpReply) (n : Fin 16) (w : Word) : (endHandshake r n w s).seq = s.seq := by simp [endHandshake]
@[simp] theorem endHandshake_pool (r : CpReply) (n : Fin 16) (w : Word) : (endHandshake r n w s).pool = s.pool := by simp [endHandshake]
@[simp] theorem endHandshake_latches (r : CpReply) (n : Fin 16) (w : Word) : (endHandshake r n w s).latches = s.latches := by simp [endHandshake]
@[simp] theorem endHandshake_bus (r : CpReply) (n : Fin 16) (w : Word) : (endHandshake r n w s).bus = s.bus := by simp [endHandshake]

/-! `accepted` -/

@[simp] theorem accepted_cfg (n : Fin 16) (w : Word) : (accepted n w s).cfg = s.cfg := by simp [accepted]
@[simp] theorem accepted_regs (n : Fin 16) (w : Word) : (accepted n w s).regs = s.regs := by simp [accepted]
@[simp] theorem accepted_pc (n : Fin 16) (w : Word) : (accepted n w s).pc = s.pc := by simp [accepted]
@[simp] theorem accepted_cpsr (n : Fin 16) (w : Word) : (accepted n w s).cpsr = s.cpsr := by simp [accepted]
@[simp] theorem accepted_spsr (n : Fin 16) (w : Word) : (accepted n w s).spsr = s.spsr := by simp [accepted]
@[simp] theorem accepted_mem (n : Fin 16) (w : Word) : (accepted n w s).mem = s.mem := by simp [accepted]
@[simp] theorem accepted_cache (n : Fin 16) (w : Word) : (accepted n w s).cache = s.cache := by simp [accepted]
@[simp] theorem accepted_pipe (n : Fin 16) (w : Word) : (accepted n w s).pipe = s.pipe := by simp [accepted]
@[simp] theorem accepted_flushRequest (n : Fin 16) (w : Word) : (accepted n w s).flushRequest = s.flushRequest := by simp [accepted]
@[simp] theorem accepted_irq (n : Fin 16) (w : Word) : (accepted n w s).irq = s.irq := by simp [accepted]
@[simp] theorem accepted_lines (n : Fin 16) (w : Word) : (accepted n w s).lines = s.lines := by simp [accepted]
@[simp] theorem accepted_inputs (n : Fin 16) (w : Word) : (accepted n w s).inputs = s.inputs := by simp [accepted]
@[simp] theorem accepted_mul (n : Fin 16) (w : Word) : (accepted n w s).mul = s.mul := by simp [accepted]
@[simp] theorem accepted_swiAnswers (n : Fin 16) (w : Word) : (accepted n w s).swiAnswers = s.swiAnswers := by simp [accepted]
@[simp] theorem accepted_periphWrites (n : Fin 16) (w : Word) : (accepted n w s).periphWrites = s.periphWrites := by simp [accepted]
@[simp] theorem accepted_seq (n : Fin 16) (w : Word) : (accepted n w s).seq = s.seq := by simp [accepted]
@[simp] theorem accepted_pool (n : Fin 16) (w : Word) : (accepted n w s).pool = s.pool := by simp [accepted]
@[simp] theorem accepted_latches (n : Fin 16) (w : Word) : (accepted n w s).latches = s.latches := by simp [accepted]
@[simp] theorem accepted_bus (n : Fin 16) (w : Word) : (accepted n w s).bus = s.bus := by simp [accepted]

/-! `releaseCurrent` -/

@[simp] theorem releaseCurrent_cfg : (releaseCurrent s).cfg = s.cfg := rfl
@[simp] theorem releaseCurrent_regs : (releaseCurrent s).regs = s.regs := rfl
@[simp] theorem releaseCurrent_pc : (releaseCurrent s).pc = s.pc := rfl
@[simp] theorem releaseCurrent_cpsr : (releaseCurrent s).cpsr = s.cpsr := rfl
@[simp] theorem releaseCurrent_spsr : (releaseCurrent s).spsr = s.spsr := rfl
@[simp] theorem releaseCurrent_mem : (releaseCurrent s).mem = s.mem := rfl
@[simp] theorem releaseCurrent_cache : (releaseCurrent s).cache = s.cache := rfl
@[simp] theorem releaseCurrent_pipe : (releaseCurrent s).pipe = s.pipe := rfl
@[simp] theorem releaseCurrent_flushRequest : (releaseCurrent s).flushRequest = s.flushRequest := rfl
@[simp] theorem releaseCurrent_irq : (releaseCurrent s).irq = s.irq := rfl
@[simp] theorem releaseCurrent_lines : (releaseCurrent s).lines = s.lines := rfl
@[simp] theorem releaseCurrent_inputs : (releaseCurrent s).inputs = s.inputs := rfl
@[simp] theorem releaseCurrent_mul : (releaseCurrent s).mul = s.mul := rfl
@[simp] theorem releaseCurrent_cp : (releaseCurrent s).cp = s.cp := rfl
@[simp] theorem releaseCurrent_cpState : (releaseCurrent s).cpState = s.cpState := rfl
@[simp] theorem releaseCurrent_cpAnswers : (releaseCurrent s).cpAnswers = s.cpAnswers := rfl
@[simp] theorem releaseCurrent_swiAnswers : (releaseCurrent s).swiAnswers = s.swiAnswers := rfl
@[simp] theorem releaseCurrent_periphWrites : (releaseCurrent s).periphWrites = s.periphWrites := rfl
@[simp] theorem releaseCurrent_latches : (releaseCurrent s).latches = s.latches := rfl
@[simp] theorem releaseCurrent_bus : (releaseCurrent s).bus = s.bus := rfl
@[simp] theorem releaseCurrent_draws : (releaseCurrent s).draws = s.draws := rfl

/-! `releaseNext` -/

@[simp] theorem releaseNext_cfg : (releaseNext s).cfg = s.cfg := rfl
@[simp] theorem releaseNext_regs : (releaseNext s).regs = s.regs := rfl
@[simp] theorem releaseNext_pc : (releaseNext s).pc = s.pc := rfl
@[simp] theorem releaseNext_cpsr : (releaseNext s).cpsr = s.cpsr := rfl
@[simp] theorem releaseNext_spsr : (releaseNext s).spsr = s.spsr := rfl
@[simp] theorem releaseNext_mem : (releaseNext s).mem = s.mem := rfl
@[simp] theorem releaseNext_cache : (releaseNext s).cache = s.cache := rfl
@[simp] theorem releaseNext_pipe : (releaseNext s).pipe = s.pipe := rfl
@[simp] theorem releaseNext_flushRequest : (releaseNext s).flushRequest = s.flushRequest := rfl
@[simp] theorem releaseNext_irq : (releaseNext s).irq = s.irq := rfl
@[simp] theorem releaseNext_lines : (releaseNext s).lines = s.lines := rfl
@[simp] theorem releaseNext_inputs : (releaseNext s).inputs = s.inputs := rfl
@[simp] theorem releaseNext_mul : (releaseNext s).mul = s.mul := rfl
@[simp] theorem releaseNext_cp : (releaseNext s).cp = s.cp := rfl
@[simp] theorem releaseNext_cpState : (releaseNext s).cpState = s.cpState := rfl
@[simp] theorem releaseNext_cpAnswers : (releaseNext s).cpAnswers = s.cpAnswers := rfl
@[simp] theorem releaseNext_swiAnswers : (releaseNext s).swiAnswers = s.swiAnswers := rfl
@[simp] theorem releaseNext_periphWrites : (releaseNext s).periphWrites = s.periphWrites := rfl
@[simp] theorem releaseNext_latches : (releaseNext s).latches = s.latches := rfl
@[simp] theorem releaseNext_bus : (releaseNext s).bus = s.bus := rfl
@[simp] theorem releaseNext_draws : (releaseNext s).draws = s.draws := rfl

/-! `releaseQueues` -/

@[simp] theorem releaseQueues_cfg : (releaseQueues s).cfg = s.cfg := rfl
@[simp] theorem releaseQueues_regs : (releaseQueues s).regs = s.regs := rfl
@[simp] theorem releaseQueues_pc : (releaseQueues s).pc = s.pc := rfl
@[simp] theorem releaseQueues_cpsr : (releaseQueues s).cpsr = s.cpsr := rfl
@[simp] theorem releaseQueues_spsr : (releaseQueues s).spsr = s.spsr := rfl
@[simp] theorem releaseQueues_mem : (releaseQueues s).mem = s.mem := rfl
@[simp] theorem releaseQueues_cache : (releaseQueues s).cache = s.cache := rfl
@[simp] theorem releaseQueues_pipe : (releaseQueues s).pipe = s.pipe := rfl
@[simp] theorem releaseQueues_flushRequest : (releaseQueues s).flushRequest = s.flushRequest := rfl
@[simp] theorem releaseQueues_irq : (releaseQueues s).irq = s.irq := rfl
@[simp] theorem releaseQueues_lines : (releaseQueues s).lines = s.lines := rfl
@[simp] theorem releaseQueues_inputs : (releaseQueues s).inputs = s.inputs := rfl
@[simp] theorem releaseQueues_mul : (releaseQueues s).mul = s.mul := rfl
@[simp] theorem releaseQueues_cp : (releaseQueues s).cp = s.cp := rfl
@[simp] theorem releaseQueues_cpState : (releaseQueues s).cpState = s.cpState := rfl
@[simp] theorem releaseQueues_cpAnswers : (releaseQueues s).cpAnswers = s.cpAnswers := rfl
@[simp] theorem releaseQueues_swiAnswers : (releaseQueues s).swiAnswers = s.swiAnswers := rfl
@[simp] theorem releaseQueues_periphWrites : (releaseQueues s).periphWrites = s.periphWrites := rfl
@[simp] theorem releaseQueues_latches : (releaseQueues s).latches = s.latches := rfl
@[simp] theorem releaseQueues_bus : (releaseQueues s).bus = s.bus := rfl
@[simp] theorem releaseQueues_draws : (releaseQueues s).draws = s.draws := rfl

/-! `nextCallback` -/

@[simp] theorem nextCallback_cfg (n : Nat) : ((nextCallback n s).2).cfg = s.cfg := by unfold nextCallback; split <;> rfl
@[simp] theorem nextCallback_regs (n : Nat) : ((nextCallback n s).2).regs = s.regs := by unfold nextCallback; split <;> rfl
@[simp] theorem nextCallback_pc (n : Nat) : ((nextCallback n s).2).pc = s.pc := by unfold nextCallback; split <;> rfl
@[simp] theorem nextCallback_cpsr (n : Nat) : ((nextCallback n s).2).cpsr = s.cpsr := by unfold nextCallback; split <;> rfl
@[simp] theorem nextCallback_spsr (n : Nat) : ((nextCallback n s).2).spsr = s.spsr := by unfold nextCallback; split <;> rfl
@[simp] theorem nextCallback_mem (n : Nat) : ((nextCallback n s).2).mem = s.mem := by unfold nextCallback; split <;> rfl
@[simp] theorem nextCallback_cache (n : Nat) : ((nextCallback n s).2).cache = s.cache := by unfold nextCallback; split <;> rfl
@[simp] theorem nextCallback_pipe (n : Nat) : ((nextCallback n s).2).pipe = s.pipe := by unfold nextCallback; split <;> rfl
@[simp] theorem nextCallback_flushRequest (n : Nat) : ((nextCallback n s).2).flushRequest = s.flushRequest := by unfold nextCallback; split <;> rfl
@[simp] theorem nextCallback_irq (n : Nat) : ((nextCallback n s).2).irq = s.irq := by unfold nextCallback; split <;> rfl
@[simp] theorem nextCallback_lines (n : Nat) : ((nextCallback n s).2).lines = s.lines := by unfold nextCallback; split <;> rfl
@[simp] theorem nextCallback_inputs (n : Nat) : ((nextCallback n s).2).inputs = s.inputs := by unfold nextCallback; split <;> rfl
@[simp] theorem nextCallback_mul (n : Nat) : ((nextCallback n s).2).mul = s.mul := by unfold nextCallback; split <;> rfl
@[simp] theorem nextCallback_cp (n : Nat) : ((nextCallback n s).2).cp = s.cp := by unfold nextCallback; split <;> rfl
@[simp] theorem nextCallback_cpState (n : Nat) : ((nextCallback n s).2).cpState = s.cpState := by unfold nextCallback; split <;> rfl
@[simp] theorem nextCallback_cpAnswers (n : Nat) : ((nextCallback n s).2).cpAnswers = s.cpAnswers := by unfold nextCallback; split <;> rfl
@[simp] theorem nextCallback_periphWrites (n : Nat) : ((nextCallback n s).2).periphWrites = s.periphWrites := by unfold nextCallback; split <;> rfl
@[simp] theorem nextCallback_seq (n : Nat) : ((nextCallback n s).2).seq = s.seq := by unfold nextCallback; split <;> rfl
@[simp] theorem nextCallback_pool (n : Nat) : ((nextCallback n s).2).pool = s.pool := by unfold nextCallback; split <;> rfl
@[simp] theorem nextCallback_latches (n : Nat) : ((nextCallback n s).2).latches = s.latches := by unfold nextCallback; split <;> rfl
@[simp] theorem nextCallback_bus (n : Nat) : ((nextCallback n s).2).bus = s.bus := by unfold nextCallback; split <;> rfl
@[simp] theorem nextCallback_draws (n : Nat) : ((nextCallback n s).2).draws = s.draws := by unfold nextCallback; split <;> rfl

/-! `mrcWrite` -/

@[simp] theorem mrcWrite_cfg (rd : Reg) (v : Word) : (mrcWrite rd v s).cfg = s.cfg := by unfold mrcWrite; split <;> simp
@[simp] theorem mrcWrite_pc (rd : Reg) (v : Word) : (mrcWrite rd v s).pc = s.pc := by unfold mrcWrite; split <;> simp
@[simp] theorem mrcWrite_spsr (rd : Reg) (v : Word) : (mrcWrite rd v s).spsr = s.spsr := by unfold mrcWrite; split <;> simp
@[simp] theorem mrcWrite_mem (rd : Reg) (v : Word) : (mrcWrite rd v s).mem = s.mem := by unfold mrcWrite; split <;> simp
@[simp] theorem mrcWrite_cache (rd : Reg) (v : Word) : (mrcWrite rd v s).cache = s.cache := by unfold mrcWrite; split <;> simp
@[simp] theorem mrcWrite_pipe (rd : Reg) (v : Word) : (mrcWrite rd v s).pipe = s.pipe := by unfold mrcWrite; split <;> simp
@[simp] theorem mrcWrite_flushRequest (rd : Reg) (v : Word) : (mrcWrite rd v s).flushRequest = s.flushRequest := by unfold mrcWrite; split <;> simp
@[simp] theorem mrcWrite_irq (rd : Reg) (v : Word) : (mrcWrite rd v s).irq = s.irq := by unfold mrcWrite; split <;> simp
@[simp] theorem mrcWrite_lines (rd : Reg) (v : Word) : (mrcWrite rd v s).lines = s.lines := by unfold mrcWrite; split <;> simp
@[simp] theorem mrcWrite_inputs (rd : Reg) (v : Word) : (mrcWrite rd v s).inputs = s.inputs := by unfold mrcWrite; split <;> simp
@[simp] theorem mrcWrite_mul (rd : Reg) (v : Word) : (mrcWrite rd v s).mul = s.mul := by unfold mrcWrite; split <;> simp
@[simp] theorem mrcWrite_cp (rd : Reg) (v : Word) : (mrcWrite rd v s).cp = s.cp := by unfold mrcWrite; split <;> simp
@[simp] theorem mrcWrite_cpState (rd : Reg) (v : Word) : (mrcWrite rd v s).cpState = s.cpState := by unfold mrcWrite; split <;> simp
@[simp] theorem mrcWrite_cpAnswers (rd : Reg) (v : Word) : (mrcWrite rd v s).cpAnswers = s.cpAnswers := by unfold mrcWrite; split <;> simp
@[simp] theorem mrcWrite_swiAnswers (rd : Reg) (v : Word) : (mrcWrite rd v s).swiAnswers = s.swiAnswers := by unfold mrcWrite; split <;> simp
@[simp] theorem mrcWrite_periphWrites (rd : Reg) (v : Word) : (mrcWrite rd v s).periphWrites = s.periphWrites := by unfold mrcWrite; split <;> simp
@[simp] theorem mrcWrite_seq (rd : Reg) (v : Word) : (mrcWrite rd v s).seq = s.seq := by unfold mrcWrite; split <;> simp
@[simp] theorem mrcWrite_pool (rd : Reg) (v : Word) : (mrcWrite rd v s).pool = s.pool := by unfold mrcWrite; split <;> simp
@[simp] theorem mrcWrite_latches (rd : Reg) (v : Word) : (mrcWrite rd v s).latches = s.latches := by unfold mrcWrite; split <;> simp
@[simp] theorem mrcWrite_bus (rd : Reg) (v : Word) : (mrcWrite rd v s).bus = s.bus := by unfold mrcWrite; split <;> simp
@[simp] theorem mrcWrite_draws (rd : Reg) (v : Word) : (mrcWrite rd v s).draws = s.draws := by unfold mrcWrite; split <;> simp

/-! `msrFlags` -/

@[simp] theorem msrFlags_cfg (m : BitVec 4) (v : Word) : (msrFlags m v s).cfg = s.cfg := by unfold msrFlags; split <;> rfl
@[simp] theorem msrFlags_regs (m : BitVec 4) (v : Word) : (msrFlags m v s).regs = s.regs := by unfold msrFlags; split <;> rfl
@[simp] theorem msrFlags_pc (m : BitVec 4) (v : Word) : (msrFlags m v s).pc = s.pc := by unfold msrFlags; split <;> rfl
@[simp] theorem msrFlags_spsr (m : BitVec 4) (v : Word) : (msrFlags m v s).spsr = s.spsr := by unfold msrFlags; split <;> rfl
@[simp] theorem msrFlags_mem (m : BitVec 4) (v : Word) : (msrFlags m v s).mem = s.mem := by unfold msrFlags; split <;> rfl
@[simp] theorem msrFlags_cache (m : BitVec 4) (v : Word) : (msrFlags m v s).cache = s.cache := by unfold msrFlags; split <;> rfl
@[simp] theorem msrFlags_pipe (m : BitVec 4) (v : Word) : (msrFlags m v s).pipe = s.pipe := by unfold msrFlags; split <;> rfl
@[simp] theorem msrFlags_flushRequest (m : BitVec 4) (v : Word) : (msrFlags m v s).flushRequest = s.flushRequest := by unfold msrFlags; split <;> rfl
@[simp] theorem msrFlags_irq (m : BitVec 4) (v : Word) : (msrFlags m v s).irq = s.irq := by unfold msrFlags; split <;> rfl
@[simp] theorem msrFlags_lines (m : BitVec 4) (v : Word) : (msrFlags m v s).lines = s.lines := by unfold msrFlags; split <;> rfl
@[simp] theorem msrFlags_inputs (m : BitVec 4) (v : Word) : (msrFlags m v s).inputs = s.inputs := by unfold msrFlags; split <;> rfl
@[simp] theorem msrFlags_mul (m : BitVec 4) (v : Word) : (msrFlags m v s).mul = s.mul := by unfold msrFlags; split <;> rfl
@[simp] theorem msrFlags_cp (m : BitVec 4) (v : Word) : (msrFlags m v s).cp = s.cp := by unfold msrFlags; split <;> rfl
@[simp] theorem msrFlags_cpState (m : BitVec 4) (v : Word) : (msrFlags m v s).cpState = s.cpState := by unfold msrFlags; split <;> rfl
@[simp] theorem msrFlags_cpAnswers (m : BitVec 4) (v : Word) : (msrFlags m v s).cpAnswers = s.cpAnswers := by unfold msrFlags; split <;> rfl
@[simp] theorem msrFlags_swiAnswers (m : BitVec 4) (v : Word) : (msrFlags m v s).swiAnswers = s.swiAnswers := by unfold msrFlags; split <;> rfl
@[simp] theorem msrFlags_periphWrites (m : BitVec 4) (v : Word) : (msrFlags m v s).periphWrites = s.periphWrites := by unfold msrFlags; split <;> rfl
@[simp] theorem msrFlags_seq (m : BitVec 4) (v : Word) : (msrFlags m v s).seq = s.seq := by unfold msrFlags; split <;> rfl
@[simp] theorem msrFlags_pool (m : BitVec 4) (v : Word) : (msrFlags m v s).pool = s.pool := by unfold msrFlags; split <;> rfl
@[simp] theorem msrFlags_latches (m : BitVec 4) (v : Word) : (msrFlags m v s).latches = s.latches := by unfold msrFlags; split <;> rfl
@[simp] theorem msrFlags_bus (m : BitVec 4) (v : Word) : (msrFlags m v s).bus = s.bus := by unfold msrFlags; split <;> rfl
@[simp] theorem msrFlags_draws (m : BitVec 4) (v : Word) : (msrFlags m v s).draws = s.draws := by unfold msrFlags; split <;> rfl

/-! `makeCurrent` -/

@[simp] theorem makeCurrent_cfg : (makeCurrent s).cfg = s.cfg := rfl
@[simp] theorem makeCurrent_regs : (makeCurrent s).regs = s.regs := rfl
@[simp] theorem makeCurrent_pc : (makeCurrent s).pc = s.pc := rfl
@[simp] theorem makeCurrent_cpsr : (makeCurrent s).cpsr = s.cpsr := rfl
@[simp] theorem makeCurrent_spsr : (makeCurrent s).spsr = s.spsr := rfl
@[simp] theorem makeCurrent_mem : (makeCurrent s).mem = s.mem := rfl
@[simp] theorem makeCurrent_cache : (makeCurrent s).cache = s.cache := rfl
@[simp] theorem makeCurrent_pipe : (makeCurrent s).pipe = s.pipe := rfl
@[simp] theorem makeCurrent_flushRequest : (makeCurrent s).flushRequest = s.flushRequest := rfl
@[simp] theorem makeCurrent_irq : (makeCurrent s).irq = s.irq := rfl
@[simp] theorem makeCurrent_lines : (makeCurrent s).lines = s.lines := rfl
@[simp] theorem makeCurrent_inputs : (makeCurrent s).inputs = s.inputs := rfl
@[simp] theorem makeCurrent_mul : (makeCurrent s).mul = s.mul := rfl
@[simp] theorem makeCurrent_cp : (makeCurrent s).cp = s.cp := rfl
@[simp] theorem makeCurrent_cpState : (makeCurrent s).cpState = s.cpState := rfl
@[simp] theorem makeCurrent_cpAnswers : (makeCurrent s).cpAnswers = s.cpAnswers := rfl
@[simp] theorem makeCurrent_swiAnswers : (makeCurrent s).swiAnswers = s.swiAnswers := rfl
@[simp] theorem makeCurrent_periphWrites : (makeCurrent s).periphWrites = s.periphWrites := rfl
@[simp] theorem makeCurrent_pool : (makeCurrent s).pool = s.pool := rfl
@[simp] theorem makeCurrent_latches : (makeCurrent s).latches = s.latches := rfl
@[simp] theorem makeCurrent_bus : (makeCurrent s).bus = s.bus := rfl
@[simp] theorem makeCurrent_draws : (makeCurrent s).draws = s.draws := rfl

/-! `refillIfEmpty` -/

@[simp] theorem refillIfEmpty_cfg : (refillIfEmpty s).cfg = s.cfg := by unfold refillIfEmpty; split <;> simp
@[simp] theorem refillIfEmpty_regs : (refillIfEmpty s).regs = s.regs := by unfold refillIfEmpty; split <;> simp
@[simp] theorem refillIfEmpty_cpsr : (refillIfEmpty s).cpsr = s.cpsr := by unfold refillIfEmpty; split <;> simp
@[simp] theorem refillIfEmpty_spsr : (refillIfEmpty s).spsr = s.spsr := by unfold refillIfEmpty; split <;> simp
@[simp] theorem refillIfEmpty_mem : (refillIfEmpty s).mem = s.mem := by unfold refillIfEmpty; split <;> simp
@[simp] theorem refillIfEmpty_flushRequest : (refillIfEmpty s).flushRequest = s.flushRequest := by unfold refillIfEmpty; split <;> simp
@[simp] theorem refillIfEmpty_irq : (refillIfEmpty s).irq = s.irq := by unfold refillIfEmpty; split <;> simp
@[simp] theorem refillIfEmpty_lines : (refillIfEmpty s).lines = s.lines := by unfold refillIfEmpty; split <;> simp
@[simp] theorem refillIfEmpty_inputs : (refillIfEmpty s).inputs = s.inputs := by unfold refillIfEmpty; split <;> simp
@[simp] theorem refillIfEmpty_mul : (refillIfEmpty s).mul = s.mul := by unfold refillIfEmpty; split <;> simp
@[simp] theorem refillIfEmpty_cp : (refillIfEmpty s).cp = s.cp := by unfold refillIfEmpty; split <;> simp
@[simp] theorem refillIfEmpty_cpState : (refillIfEmpty s).cpState = s.cpState := by unfold refillIfEmpty; split <;> simp
@[simp] theorem refillIfEmpty_cpAnswers : (refillIfEmpty s).cpAnswers = s.cpAnswers := by unfold refillIfEmpty; split <;> simp
@[simp] theorem refillIfEmpty_swiAnswers : (refillIfEmpty s).swiAnswers = s.swiAnswers := by unfold refillIfEmpty; split <;> simp
@[simp] theorem refillIfEmpty_periphWrites : (refillIfEmpty s).periphWrites = s.periphWrites := by unfold refillIfEmpty; split <;> simp
@[simp] theorem refillIfEmpty_seq : (refillIfEmpty s).seq = s.seq := by unfold refillIfEmpty; split <;> simp
@[simp] theorem refillIfEmpty_pool : (refillIfEmpty s).pool = s.pool := by unfold refillIfEmpty; split <;> simp
@[simp] theorem refillIfEmpty_latches : (refillIfEmpty s).latches = s.latches := by unfold refillIfEmpty; split <;> simp
@[simp] theorem refillIfEmpty_bus : (refillIfEmpty s).bus = s.bus := by unfold refillIfEmpty; split <;> simp

/-! `beginStep` -/

@[simp] theorem beginStep_cfg : (beginStep s).cfg = s.cfg := by simp [beginStep]
@[simp] theorem beginStep_regs : (beginStep s).regs = s.regs := by simp [beginStep]
@[simp] theorem beginStep_cpsr : (beginStep s).cpsr = s.cpsr := by simp [beginStep]
@[simp] theorem beginStep_spsr : (beginStep s).spsr = s.spsr := by simp [beginStep]
@[simp] theorem beginStep_mem : (beginStep s).mem = s.mem := by simp [beginStep]
@[simp] theorem beginStep_lines : (beginStep s).lines = s.lines := by simp [beginStep]
@[simp] theorem beginStep_inputs : (beginStep s).inputs = s.inputs := by simp [beginStep]
@[simp] theorem beginStep_mul : (beginStep s).mul = s.mul := by simp [beginStep]
@[simp] theorem beginStep_cp : (beginStep s).cp = s.cp := by simp [beginStep]
@[simp] theorem beginStep_cpState : (beginStep s).cpState = s.cpState := by simp [beginStep]
@[simp] theorem beginStep_cpAnswers : (beginStep s).cpAnswers = s.cpAnswers := by simp [beginStep]
@[simp] theorem beginStep_swiAnswers : (beginStep s).swiAnswers = s.swiAnswers := by simp [beginStep]
@[simp] theorem beginStep_periphWrites : (beginStep s).periphWrites = s.periphWrites := by simp [beginStep]
@[simp] theorem beginStep_latches : (beginStep s).latches = s.latches := by simp [beginStep]
@[simp] theorem beginStep_bus : (beginStep s).bus = s.bus := by simp [beginStep]

/-! What the updates do write -/

@[simp] theorem setPc_pc (t : Word) : (setPc t s).pc = t := rfl
@[simp] theorem setPc_valid (t : Word) : (setPc t s).pipe.valid = false := rfl
@[simp] theorem setPc_fetchAddr (t : Word) : (setPc t s).pipe.fetchAddr = t := rfl
@[simp] theorem advance_pc : (advance s).pc = s.pc + 4 := rfl
@[simp] theorem setMode_mode (m : Mode) : (setMode m s).cpsr.mode = m := rfl
@[simp] theorem prefetch_valid : (prefetch s).pipe.valid = true := rfl
@[simp] theorem prefetch_next : (prefetch s).pipe.next = s.pipe.ip := rfl
@[simp] theorem prefetch_ipAddr : (prefetch s).pipe.ipAddr = s.pipe.fetchAddr := rfl
@[simp] theorem prefetch_fetchAddr : (prefetch s).pipe.fetchAddr = s.pipe.fetchAddr + 4 := rfl
@[simp] theorem refill1_ipAddr : (refill1 s).pipe.ipAddr = s.pipe.fetchAddr := rfl
@[simp] theorem refill1_fetchAddr : (refill1 s).pipe.fetchAddr = s.pipe.fetchAddr + 4 := rfl
@[simp] theorem jump_pc (t : Word) : (jump t s).pc = t := by simp [jump]
@[simp] theorem jump_valid (t : Word) : (jump t s).pipe.valid = true := rfl
@[simp] theorem skip_pc : (skip s).pc = s.pc + 4 := by simp [skip]
@[simp] theorem refillIfEmpty_pc : (refillIfEmpty s).pc = s.pc := by unfold refillIfEmpty; split <;> simp
@[simp] theorem beginStep_pc : (beginStep s).pc = s.pc := by simp [beginStep]
@[simp] theorem enterException_pc (e : Exc) (lr : Word) : (enterException e lr s).pc = vector e := by
  simp [enterException]
@[simp] theorem saveState_cpsr (e : Exc) (lr : Word) : (saveState e lr s).cpsr = entryPsr e s.cpsr := rfl
@[simp] theorem enterException_cpsr (e : Exc) (lr : Word) : (enterException e lr s).cpsr = entryPsr e s.cpsr := by
  simp [enterException]
@[simp] theorem entryPsr_mode (e : Exc) (p : Psr) : (entryPsr e p).mode = excMode e := rfl
@[simp] theorem entryPsr_i (e : Exc) (p : Psr) : (entryPsr e p).i = true := rfl
@[simp] theorem entryPsr_n (e : Exc) (p : Psr) : (entryPsr e p).n = p.n := rfl
@[simp] theorem entryPsr_z (e : Exc) (p : Psr) : (entryPsr e p).z = p.z := rfl
@[simp] theorem entryPsr_c (e : Exc) (p : Psr) : (entryPsr e p).c = p.c := rfl
@[simp] theorem entryPsr_v (e : Exc) (p : Psr) : (entryPsr e p).v = p.v := rfl
@[simp] theorem useMulUnit_mul (g : Bool) (rm rs : Word) :
    (useMulUnit g rm rs s).mul = clearAccumulators (boothRun g rm rs) := rfl
@[simp] theorem driveRequest_request (w : Word) : (driveRequest w s).cp.request = true := rfl
@[simp] theorem driveRequest_instr (w : Word) : (driveRequest w s).cp.instr = w := rfl
@[simp] theorem driveRequest_sent (w : Word) : (driveRequest w s).cp.sent = [] := rfl
@[simp] theorem driveRequest_moved (w : Word) : (driveRequest w s).cp.moved = 0 := rfl
@[simp] theorem driveRequest_taken (w : Word) : (driveRequest w s).cp.taken = .wait := rfl

/-- A coprocessor's turn changes what the plug-in holds and its lines, and ends the strobe and a request replied to. -/
theorem answerCycle_cp (n : Fin 16) : (answerCycle n s).cp =
    { s.cp with lines := (answerCycle n s).cp.lines, transfer := false, taken := .wait,
                request := s.cp.request && s.cp.taken == .wait } := by
  unfold answerCycle; split <;> rfl

@[simp] theorem answerCycle_request (n : Fin 16) :
    (answerCycle n s).cp.request = (s.cp.request && s.cp.taken == .wait) := by rw [answerCycle_cp]
@[simp] theorem answerCycle_taken (n : Fin 16) : (answerCycle n s).cp.taken = .wait := by rw [answerCycle_cp]
@[simp] theorem answerCycle_instr (n : Fin 16) : (answerCycle n s).cp.instr = s.cp.instr := by rw [answerCycle_cp]
@[simp] theorem answerCycle_dataOut (n : Fin 16) : (answerCycle n s).cp.dataOut = s.cp.dataOut := by rw [answerCycle_cp]
@[simp] theorem answerCycle_transfer (n : Fin 16) : (answerCycle n s).cp.transfer = false := by rw [answerCycle_cp]
@[simp] theorem answerCycle_sent (n : Fin 16) : (answerCycle n s).cp.sent = s.cp.sent := by rw [answerCycle_cp]
@[simp] theorem answerCycle_moved (n : Fin 16) : (answerCycle n s).cp.moved = s.cp.moved := by rw [answerCycle_cp]

/-- A look changes the lines the core sees, the queue they came from, and the draws. -/
theorem look_cp (n : Fin 16) : (look n s).cp = { s.cp with lines := (look n s).cp.lines } := by
  simp [look]

@[simp] theorem look_request (n : Fin 16) : (look n s).cp.request = s.cp.request := by rw [look_cp]
@[simp] theorem look_instr (n : Fin 16) : (look n s).cp.instr = s.cp.instr := by rw [look_cp]
@[simp] theorem look_dataOut (n : Fin 16) : (look n s).cp.dataOut = s.cp.dataOut := by rw [look_cp]
@[simp] theorem look_transfer (n : Fin 16) : (look n s).cp.transfer = s.cp.transfer := by rw [look_cp]
@[simp] theorem look_sent (n : Fin 16) : (look n s).cp.sent = s.cp.sent := by rw [look_cp]
@[simp] theorem look_moved (n : Fin 16) : (look n s).cp.moved = s.cp.moved := by rw [look_cp]

@[simp] theorem look_taken (n : Fin 16) : (look n s).cp.taken = s.cp.taken := by rw [look_cp]
@[simp] theorem moveWord_taken (n : Fin 16) (v : Option Word) : (moveWord n v s).cp.taken = .wait := by
  simp [moveWord]
@[simp] theorem moveWord_request (n : Fin 16) (v : Option Word) :
    (moveWord n v s).cp.request = (s.cp.request && s.cp.taken == .wait) := by
  simp [moveWord, driveTransfer]
@[simp] theorem moveWord_instr (n : Fin 16) (v : Option Word) : (moveWord n v s).cp.instr = s.cp.instr := by
  simp [moveWord, driveTransfer]
@[simp] theorem moveWord_sent (n : Fin 16) (v : Option Word) : (moveWord n v s).cp.sent = s.cp.sent ++ v.toList := by
  simp [moveWord, driveTransfer]
@[simp] theorem moveWord_moved (n : Fin 16) (v : Option Word) : (moveWord n v s).cp.moved = s.cp.moved + 1 := by
  simp [moveWord, driveTransfer]

@[simp] theorem reply_request (n : Fin 16) : (reply n s).2.cp.request = s.cp.request := by
  unfold reply; split <;> simp
@[simp] theorem reply_taken (n : Fin 16) : (reply n s).2.cp.taken = s.cp.taken := by
  unfold reply; split <;> simp
@[simp] theorem reply_instr (n : Fin 16) : (reply n s).2.cp.instr = s.cp.instr := by
  unfold reply; split <;> simp
@[simp] theorem reply_sent (n : Fin 16) : (reply n s).2.cp.sent = s.cp.sent := by
  unfold reply; split <;> simp
@[simp] theorem reply_moved (n : Fin 16) : (reply n s).2.cp.moved = s.cp.moved := by
  unfold reply; split <;> simp

@[simp] theorem ask_request (n : Fin 16) (w : Word) : (ask n w s).2.cp.request = true := by simp [ask]
@[simp] theorem ask_taken (n : Fin 16) (w : Word) : (ask n w s).2.cp.taken = .wait := by simp [ask]
@[simp] theorem ask_instr (n : Fin 16) (w : Word) : (ask n w s).2.cp.instr = w := by simp [ask]
@[simp] theorem ask_sent (n : Fin 16) (w : Word) : (ask n w s).2.cp.sent = [] := by simp [ask]
@[simp] theorem ask_moved (n : Fin 16) (w : Word) : (ask n w s).2.cp.moved = 0 := by simp [ask]

section
variable (r : CpReply) (n : Fin 16) (w : Word)

@[simp] theorem endHandshake_request (h : r ≠ .wait) : (endHandshake r n w s).cp.request = false := by
  simp [endHandshake, takeReply, h]
@[simp] theorem endHandshake_taken : (endHandshake r n w s).cp.taken = .wait := by simp [endHandshake]
@[simp] theorem endHandshake_instr : (endHandshake r n w s).cp.instr = w := by simp [endHandshake, takeReply]
@[simp] theorem endHandshake_sent : (endHandshake r n w s).cp.sent = [] := by simp [endHandshake, takeReply]
@[simp] theorem endHandshake_moved : (endHandshake r n w s).cp.moved = 0 := by simp [endHandshake, takeReply]
@[simp] theorem accepted_request : (accepted n w s).cp.request = false := by simp [accepted]
@[simp] theorem accepted_taken : (accepted n w s).cp.taken = .wait := by simp [accepted]
@[simp] theorem accepted_instr : (accepted n w s).cp.instr = w := by simp [accepted]
@[simp] theorem accepted_sent : (accepted n w s).cp.sent = [] := by simp [accepted]
@[simp] theorem accepted_moved : (accepted n w s).cp.moved = 0 := by simp [accepted]

end

/-- What the coprocessors' stage of a cycle can change: what the plug-ins hold, the lines, the strobe and a request replied
to, which end. -/
theorem coprocessorStage_eq : ∃ q x, coprocessorStage s =
    { s with cpState := q, cp := { s.cp with lines := x, transfer := false, taken := .wait,
                                             request := s.cp.request && s.cp.taken == .wait } } := by
  suffices h : ∀ (l : List (Fin 16)) (u : State), ∃ q x, l.foldl
      (fun u cp => if plugInGiven u.cfg cp then cyclePlugIn cp (cpAt u.cp.instr == cp) u else u) u =
      { u with cpState := q, cp := { u.cp with lines := x } } by
    obtain ⟨q, x, h⟩ := h (List.finRange 16) s
    exact ⟨q, x, by simp [coprocessorStage, endCpCycle, h]⟩
  intro l
  induction l with
  | nil => exact fun u => ⟨u.cpState, u.cp.lines, rfl⟩
  | cons cp l ih =>
    intro u
    simp only [List.foldl_cons]
    split
    · obtain ⟨q, x, h⟩ := ih (cyclePlugIn cp (cpAt u.cp.instr == cp) u)
      rw [h, cyclePlugIn]
      split
      · exact ⟨q, x, rfl⟩
      · exact ⟨q, x, rfl⟩
    · exact ih u

/-- How a handshake goes on: it waits, traps, or runs what follows the acceptance (48_coprocessor.md R512). -/
theorem handshake_cases {n : Fin 16} {w : Word} {go : State → Result} {t : State} (h : handshake n w s go = .next t) :
    ((ask n w s).1 = .wait ∧ t = (ask n w s).2) ∨
    ((ask n w s).1 = .abort ∧ raiseException .undefined (endHandshake .abort n w s) = .next t) ∨
    ((ask n w s).1 = .ack ∧ go (accepted n w s) = .next t) := by
  unfold handshake at h
  split at h
  · exact .inl ⟨‹_›, by cases h; rfl⟩
  · exact .inr (.inl ⟨‹_›, h⟩)
  · exact .inr (.inr ⟨‹_›, h⟩)

@[simp] theorem storeEffect_periphWrites (w : Width) (a v : Word) : (storeEffect w a v s).periphWrites =
    if a.msb then s.periphWrites ++ [periphEvent w a v] else s.periphWrites := by
  unfold storeEffect; split <;> rfl
@[simp] theorem storeEffect_mem (w : Width) (a v : Word) : (storeEffect w a v s).mem =
    if a.msb then s.mem else storeBytes s.mem w a (replicate w v) := by
  unfold storeEffect; split <;> rfl
@[simp] theorem releaseQueues_curQ : (releaseQueues s).seq.curQ = [] := rfl
@[simp] theorem releaseQueues_nextQ : (releaseQueues s).seq.nextQ = [] := rfl
@[simp] theorem releaseQueues_idx : (releaseQueues s).seq.idx = 0 := rfl

/-! Reads after updates -/

theorem readReg_congr {s t : State} (i : Reg) (hr : t.regs = s.regs) (hp : t.pc = s.pc) (hm : t.cpsr.mode = s.cpsr.mode) :
    readReg t i = readReg s i := by
  simp [readReg, readBank, hr, hp, hm]

theorem readReg_prefetch (i : Reg) : readReg (prefetch s) i = readReg s i :=
  readReg_congr i (by simp) (by simp) (by simp)

/-! Outcomes carried on -/

@[simp] theorem andThen_next {α β : Type} (a : α) (k : α → Host.Outcome β Fault Refusal) : andThen (.next a) k = k a := rfl
@[simp] theorem andThen_fault {α β : Type} (e : Fault) (k : α → Host.Outcome β Fault Refusal) :
    andThen (.fault e) k = .fault e := rfl
@[simp] theorem andThen_refused {α β : Type} (e : Refusal) (k : α → Host.Outcome β Fault Refusal) :
    andThen (.refused e) k = .refused e := rfl

/-- A chain answers a next state only through its first part. -/
theorem andThen_eq_next {α β : Type} {r : Host.Outcome α Fault Refusal} {k : α → Host.Outcome β Fault Refusal} {b : β} :
    andThen r k = .next b ↔ ∃ a, r = .next a ∧ k a = .next b := by
  cases r <;> simp [andThen]

/-- What a conditional instruction can do: refuse its word, skip, or take its effect. -/
theorem conditional_cases {c : Cond} {why : Option Unpredictable} {k : State → Result} {t : State}
    (h : conditional c why s k = .next t) :
    why = none ∧ ((condPassed c s.cpsr = false ∧ t = skip s) ∨ (condPassed c s.cpsr = true ∧ k s = .next t)) := by
  cases why with
  | some r => cases h
  | none =>
    cases hc : condPassed c s.cpsr <;> simp [conditional, hc] at h
    · exact ⟨rfl, .inl ⟨rfl, h.symm⟩⟩
    · exact ⟨rfl, .inr ⟨rfl, h⟩⟩

/-- A data read answers a value only when the address is served, and changes the cache and the draws alone. -/
theorem busRead_eq_next {w : Width} {a : Word} {r : Word × State} :
    busRead w a s = .next r ↔
      busFault s.cfg w a = none ∧ r = (extractRead w a (busWord (alignWord a) s).1, (busWord (alignWord a) s).2) := by
  cases h : busFault s.cfg w a <;> simp [busRead, h, eq_comm]

/-- A store answers a next state only when the address is served and outside the prefetch window. -/
theorem busWrite_eq_next {w : Width} {a v : Word} {t : State} :
    busWrite w a v s = .next t ↔ storeFault s.cfg s.pc w a = none ∧ t = storeEffect w a v s := by
  cases h : storeFault s.cfg s.pc w a <;> simp [busWrite, h, eq_comm]

/-- The transfer stages of an LDC change the port, what the plug-in holds, its queue, the cache and the draws alone. -/
theorem loadTransfer_frame {n : Fin 16} {k : Nat} {a : Word} {t : State} (h : loadTransfer n k a s = .next t) :
    t.cfg = s.cfg ∧ t.regs = s.regs ∧ t.pc = s.pc ∧ t.cpsr = s.cpsr ∧ t.spsr = s.spsr ∧ t.mem = s.mem ∧ t.pipe = s.pipe ∧
    t.flushRequest = s.flushRequest ∧ t.irq = s.irq ∧ t.lines = s.lines ∧ t.inputs = s.inputs ∧ t.mul = s.mul ∧
    t.swiAnswers = s.swiAnswers ∧ t.periphWrites = s.periphWrites ∧ t.seq = s.seq ∧ t.pool = s.pool ∧
    t.latches = s.latches ∧ t.bus = s.bus := by
  induction k generalizing a s with
  | zero => cases h; simp
  | succ k ih =>
    simp only [loadTransfer, andThen_eq_next, busRead_eq_next] at h
    obtain ⟨r, ⟨-, rfl⟩, h⟩ := h
    split at h
    · cases h; simp
    · simpa using ih _ h

/-- The transfer stages of an STC change the port, what the plug-in holds, its queue, the draws, and what a store does. -/
theorem storeTransfer_frame {n : Fin 16} {k : Nat} {a : Word} {t : State} (h : storeTransfer n k a s = .next t) :
    t.cfg = s.cfg ∧ t.regs = s.regs ∧ t.pc = s.pc ∧ t.cpsr = s.cpsr ∧ t.spsr = s.spsr ∧ t.pipe = s.pipe ∧
    t.flushRequest = s.flushRequest ∧ t.irq = s.irq ∧ t.lines = s.lines ∧ t.inputs = s.inputs ∧ t.mul = s.mul ∧
    t.swiAnswers = s.swiAnswers ∧ t.seq = s.seq ∧ t.pool = s.pool ∧ t.latches = s.latches ∧ t.bus = s.bus := by
  induction k generalizing a s with
  | zero => cases h; simp
  | succ k ih =>
    simp only [storeTransfer, andThen_eq_next, busWrite_eq_next] at h
    obtain ⟨r, ⟨-, rfl⟩, h⟩ := h
    split at h
    · cases h; simp
    · simpa using ih _ h

end Sys2Proof.Machine
end

