-- ==== Sys2Proof/Laws/Cache.lean ====
section
/-! SUPPORT. A coherent cache: what it answers is what memory holds, and a fill keeps it so (20_memory.md R150, R158). -/

namespace Sys2Proof.Machine

@[simp] theorem wordsAt_length (m : Memory) (a n : Nat) : (wordsAt m a n).length = n := by
  induction n generalizing a with
  | zero => rfl
  | succ n ih => simp [wordsAt, ih]

theorem wordsAt_get {m : Memory} {a n k : Nat} (h : k < n) : (wordsAt m a n)[k]? = some (wordAt m (a + 4 * k)) := by
  induction n generalizing a k with
  | zero => omega
  | succ n ih =>
    cases k with
    | zero => simp [wordsAt]
    | succ k => simp [wordsAt, ih (by omega : k < n), Nat.mul_add, Nat.add_comm, Nat.add_assoc]

theorem isPow2_pos {n : Nat} (h : isPow2 n) : 0 < n := by
  rw [h]; exact Nat.two_pow_pos _

theorem cacheLines_pos {cfg : Config} (h : Config.wf cfg) : 0 < cacheLines cfg :=
  Nat.div_pos h.2.2.2.1 (isPow2_pos h.1)

theorem setCount_pos {cfg : Config} (h : Config.wf cfg) : 0 < setCount cfg := by
  unfold setCount
  split
  · exact cacheLines_pos h
  · exact Nat.one_pos
  · exact Nat.div_pos h.2.2.2.2.1 (isPow2_pos h.2.2.1)

theorem slotLine_mem {l : List (Nat × CacheLine)} {n : Nat} {x : CacheLine} (h : slotLine l n = some x) : (n, x) ∈ l := by
  induction l with
  | nil => cases h
  | cons y rest ih =>
    obtain ⟨k, z⟩ := y
    simp only [slotLine] at h
    split at h
    · next hk => subst hk; cases h; exact List.mem_cons_self
    · exact List.mem_cons_of_mem _ (ih h)

theorem mem_setSlot {l : List (Nat × CacheLine)} {n : Nat} {x : CacheLine} {y : Nat × CacheLine}
    (h : y ∈ setSlot l n x) : y = (n, x) ∨ y ∈ l := by
  induction l with
  | nil => simpa [setSlot] using h
  | cons z rest ih =>
    obtain ⟨k, v⟩ := z
    simp only [setSlot] at h
    split at h
    · simpa using h
    · split at h
      · rcases List.mem_cons.mp h with h | h
        · exact .inl h
        · exact .inr (List.mem_cons_of_mem _ h)
      · rcases List.mem_cons.mp h with h | h
        · exact .inr (h ▸ List.mem_cons_self)
        · rcases ih h with h | h
          · exact .inl h
          · exact .inr (List.mem_cons_of_mem _ h)

theorem slotOf_mod (cfg : Config) (way a : Nat) : slotOf cfg way a % setCount cfg = lineIndex cfg a := by
  simp [slotOf, lineIndex]

/-- A slot of the right index holding the right tag holds the address's line (R123 to R126). -/
theorem slotBase_eq {cfg : Config} {n a : Nat} {l : CacheLine} (hi : n % setCount cfg = lineIndex cfg a)
    (ht : l.tag = lineTag cfg a) : slotBase cfg n l = lineBase cfg a := by
  simp only [slotBase, lineBase, hi, ht, lineTag, lineIndex]
  rw [Nat.div_add_mod']

/-- What `Read` finds: a slot of the address's index whose line has its tag. -/
theorem findSlot_some {cfg : Config} {c : Cache} {a n : Nat} (h : findSlot cfg c a = some n) :
    (∃ way, n = slotOf cfg way a) ∧ ∃ l, slotLine c.lines n = some l ∧ l.tag = lineTag cfg a := by
  have hm := List.mem_of_find?_eq_some h
  have hp := List.find?_some h
  obtain ⟨way, -, rfl⟩ := List.mem_map.mp hm
  refine ⟨⟨way, rfl⟩, ?_⟩
  cases hl : slotLine c.lines (slotOf cfg way a) with
  | none => simp [hl] at hp
  | some l => exact ⟨l, rfl, by simpa [hl] using hp⟩

theorem lineOffset_lt {cfg : Config} (h : Config.wf cfg) (a : Nat) : lineOffset cfg a < cfg.lineWords :=
  Nat.mod_lt _ (isPow2_pos h.1)

/-- An aligned address is its line's base and its word's offset (R123). -/
theorem lineBase_add_offset (cfg : Config) {a : Nat} (ha : a % 4 = 0) :
    lineBase cfg a + 4 * lineOffset cfg a = a := by
  simp only [lineBase, lineNumber, lineOffset]
  rw [← Nat.div_div_eq_div_mul, Nat.mul_comm 4 cfg.lineWords, ← Nat.mul_assoc, Nat.mul_comm 4]
  rw [← Nat.add_mul, Nat.div_add_mod']
  omega

/-- A hit in a coherent cache is the word memory holds. -/
theorem cacheRead_coherent {cfg : Config} {m : Memory} {c : Cache} (hw : Config.wf cfg) (hc : cacheCoherent cfg m c)
    {a : Nat} (ha : a % 4 = 0) {w : Word} (h : cacheRead cfg c a = .hit w) : w = wordAt m a := by
  unfold cacheRead at h
  split at h
  · cases h
  · next n hn =>
    obtain ⟨⟨way, hway⟩, l, hl, ht⟩ := findSlot_some hn
    have hb : slotBase cfg n l = lineBase cfg a := slotBase_eq (by rw [hway, slotOf_mod cfg]) ht
    have hwords := hc _ (slotLine_mem hl)
    simp only [hl, Option.bind_some] at h
    rw [hwords, wordsAt_get (lineOffset_lt hw a), hb, lineBase_add_offset cfg ha] at h
    simp only at h
    cases h
    rfl

/-- Installing a line of memory keeps the cache coherent. -/
theorem cacheWriteLine_coherent {cfg : Config} {m : Memory} {c : Cache}
    (hc : cacheCoherent cfg m c) (a draws : Nat) :
    cacheCoherent cfg m (cacheWriteLine cfg c a (wordsAt m (lineBase cfg a) cfg.lineWords) draws).1 := by
  have hi : (victimSlot cfg c a draws).1 % setCount cfg = lineIndex cfg a := by
    unfold victimSlot
    split
    · next n hn =>
      obtain ⟨⟨way, hway⟩, -⟩ := findSlot_some hn
      rw [hway]; exact slotOf_mod cfg way a
    · split
      · exact slotOf_mod cfg 0 a
      · next hk =>
        split <;> simp [setCount, lineIndex, hk, Nat.mod_one]
      · exact slotOf_mod cfg _ a
  intro x hx
  rcases mem_setSlot hx with rfl | hx
  · simp only
    rw [slotBase_eq hi rfl]
  · exact hc x hx

/-- Through a coherent cache an aligned read is a read of memory, whether it hits or misses. -/
theorem cachedWord_coherent {s : State} (hw : Config.wf s.cfg) (hc : cacheCoherent s.cfg s.mem s.cache) {a : Nat}
    (ha : a % 4 = 0) :
    (cachedWord a s).1 = wordAt s.mem a ∧ cacheCoherent s.cfg s.mem (cachedWord a s).2.cache := by
  unfold cachedWord
  split
  · next w h =>
    rw [if_pos (cacheRead_coherent hw hc ha h)]
    exact ⟨cacheRead_coherent hw hc ha h, hc⟩
  · exact ⟨rfl, cacheWriteLine_coherent hc a s.draws⟩

theorem alignWord_bit : ∀ k, (hk : k < 32) → (0xFFFFFFFC#32)[k] = decide (2 ≤ k) := by decide

theorem alignWord_toNat (a : Word) : (alignWord a).toNat = a.toNat / 4 * 4 := by
  have h : alignWord a = (a >>> 2) <<< 2 := by
    ext k hk
    rw [alignWord, BitVec.getElem_and, alignWord_bit k hk, BitVec.getElem_shiftLeft]
    rcases Nat.lt_or_ge k 2 with h | h
    · simp [h]
    · simp [h, Nat.not_lt.mpr h, BitVec.getElem_eq_testBit_toNat, Nat.add_sub_cancel' h]
  rw [h, BitVec.toNat_shiftLeft, BitVec.toNat_ushiftRight, Nat.shiftLeft_eq, Nat.shiftRight_eq_div_pow]
  omega

/-- A data read of memory through a coherent cache brings the aligned word memory holds. -/
theorem busWord_coherent {s : State} (hw : Config.wf s.cfg) (hc : cacheCoherent s.cfg s.mem s.cache) {a : Word}
    (hm : a.msb = false) (ha : a.toNat % 4 = 0) :
    (busWord a s).1 = wordAt s.mem a.toNat ∧ cacheCoherent s.cfg s.mem (busWord a s).2.cache := by
  simpa [busWord, hm] using cachedWord_coherent hw hc ha

/-- A data read of a peripheral leaves the cache alone. -/
theorem busWord_peripheral {s : State} {a : Word} (hm : a.msb = true) : (busWord a s).2.cache = s.cache := by
  simp [busWord, hm]

/-- A fetch through a coherent cache gives what memory holds. -/
theorem fetch_coherent {s : State} (hw : Config.wf s.cfg) (hc : cacheCoherent s.cfg s.mem s.cache) {a : Word}
    (ha : a.toNat % 4 = 0) :
    (fetch a s).1 = fetchedAt s.cfg s.mem a ∧ cacheCoherent s.cfg s.mem (fetch a s).2.cache := by
  have h4 : (alignWord a).toNat = a.toNat := by rw [alignWord_toNat]; omega
  unfold fetch fetchedAt
  by_cases h : (a.msb || decide (s.cfg.memLimit ≤ a.toNat)) = true
  · rw [if_pos h, if_pos h]
    exact ⟨rfl, hc⟩
  · have := cachedWord_coherent hw hc (a := (alignWord a).toNat) (by omega)
    rw [if_neg h, if_neg h]
    exact ⟨congrArg (fun w => ({ word := w, ok := true } : Fetched)) (this.1.trans (by rw [h4])), this.2⟩

end Sys2Proof.Machine
end

