-- ==== Sys2Proof/Laws/Encoding.lean ====
section
/-! SUPPORT. Fields of a word as division and remainder of its number, so that facts about encodings are linear
arithmetic. -/

namespace Sys2Proof

theorem Cond.code_lt (c : Cond) : c.code < 15 := by cases c <;> decide

@[simp] theorem Cond.ofCode_code (c : Cond) : Cond.ofCode c.code = some c := by cases c <;> rfl

theorem Cond.code_of_ofCode {n : Nat} {c : Cond} (h : Cond.ofCode n = some c) : c.code = n := by
  unfold Cond.ofCode at h
  split at h <;> cases h <;> rfl

theorem ShiftType.code_lt (t : ShiftType) : t.code < 4 := by cases t <;> decide

@[simp] theorem ShiftType.ofBits_code (t : ShiftType) : ShiftType.ofBits (BitVec.ofNat 2 t.code) = t := by
  cases t <;> decide

/-- A field of a word, as a number. -/
theorem field_toNat (w : Word) (lo len : Nat) : (w.extractLsb' lo len).toNat = w.toNat / 2 ^ lo % 2 ^ len := by
  simp [Nat.shiftRight_eq_div_pow]

/-- A field of a word built from a number. -/
theorem field_ofNat (n lo len : Nat) :
    (BitVec.ofNat 32 n).extractLsb' lo len = BitVec.ofNat len (n % 2 ^ 32 / 2 ^ lo) := by
  apply BitVec.eq_of_toNat_eq
  simp [Nat.shiftRight_eq_div_pow]

/-- A bit of a word, as a number. -/
theorem bit_eq (w : Word) (k : Nat) : w.getLsbD k = decide (w.toNat / 2 ^ k % 2 = 1) := by
  simp [BitVec.getLsbD, Nat.testBit_eq_decide_div_mod_eq]

/-- A field equal to a constant, as an equation of numbers. -/
theorem field_eq_iff (w : Word) (lo len : Nat) (b : BitVec len) :
    w.extractLsb' lo len = b ↔ w.toNat / 2 ^ lo % 2 ^ len = b.toNat := by
  rw [← field_toNat]
  exact ⟨fun h => by rw [h], fun h => BitVec.eq_of_toNat_eq h⟩

/-- The bytes of a word give the word back (little-endian). -/
theorem wordOfBytes_byteOf (w : Word) : wordOfBytes (byteOf w 0) (byteOf w 1) (byteOf w 2) (byteOf w 3) = w := by
  apply BitVec.eq_of_toNat_eq
  have := w.isLt
  simp only [wordOfBytes, byteOf, BitVec.toNat_ofNat, field_toNat]
  omega

end Sys2Proof
end

