-- ==== Sys2Proof/Laws/Memory.lean ====
section
/-! SUPPORT. Memory operations keep the canonical form and the bound; a read after a write; what a store leaves alone. -/

namespace Sys2Proof.Machine

/-- Every entry of a written memory is an old one or the new one. -/
theorem mem_writeByte {m : Memory} {a : Nat} {v : Byte} {c : Host.Cell} (h : c ∈ writeByte m a v) :
    c ∈ m ∨ (c = (a, v) ∧ v ≠ unlistedByte) := by
  induction m with
  | nil =>
    unfold writeByte at h
    split at h <;> simp_all
  | cons x rest ih =>
    obtain ⟨k, w⟩ := x
    unfold writeByte at h
    repeat' split at h
    all_goals simp only [List.mem_cons] at h ⊢
    · exact .inl h
    · exact h.elim (fun h => .inr ⟨h, ‹_›⟩) .inl
    · exact .inl (.inr h)
    · exact h.elim (fun h => .inr ⟨h, ‹_›⟩) (fun h => .inl (.inr h))
    · rcases h with h | h
      · exact .inl (.inl h)
      · exact (ih h).elim (fun h => .inl (.inr h)) .inr

theorem writeByte_wf {m : Memory} (h : Memory.wf m) (a : Nat) (v : Byte) : Memory.wf (writeByte m a v) := by
  refine ⟨?_, fun c hc => ?_⟩
  · obtain ⟨hs, -⟩ := h
    induction m with
    | nil => unfold writeByte; split <;> simp
    | cons x rest ih =>
      obtain ⟨k, w⟩ := x
      simp only [List.pairwise_cons] at hs
      unfold writeByte
      repeat' split
      all_goals try simp only [List.pairwise_cons, List.mem_cons]
      · exact hs
      · refine ⟨fun c hc => ?_, hs⟩
        rcases hc with rfl | hc
        · assumption
        · exact Nat.lt_trans ‹_› (hs.1 c hc)
      · exact hs.2
      · subst_vars; exact hs
      · refine ⟨fun c hc => ?_, ih hs.2⟩
        rcases mem_writeByte hc with hc | ⟨rfl, -⟩
        · exact hs.1 c hc
        · show k < a; omega
  · rcases mem_writeByte hc with hc | ⟨rfl, hv⟩
    · exact h.2 c hc
    · exact hv

theorem writeByte_below {m : Memory} {limit : Nat} (h : Memory.below limit m) {a : Nat} (ha : a < limit) (v : Byte) :
    Memory.below limit (writeByte m a v) := fun c hc => by
  rcases mem_writeByte hc with hc | ⟨rfl, -⟩
  · exact h c hc
  · exact ha

theorem writeLanes_wf {m : Memory} (h : Memory.wf m) (a : Nat) (d : Word) (n : Nat) : Memory.wf (writeLanes m a d n) := by
  induction n generalizing m a with
  | zero => exact h
  | succ n ih => exact ih (writeByte_wf h _ _) _

theorem storeBytes_wf {m : Memory} (h : Memory.wf m) (w : Width) (a d : Word) : Memory.wf (storeBytes m w a d) :=
  writeLanes_wf h _ _ _

theorem applyWrites_wf {m : Memory} (h : Memory.wf m) (limit : Nat) (l : List Host.Cell) :
    Memory.wf (applyWrites limit m l) := by
  induction l generalizing m with
  | nil => exact h
  | cons c rest ih =>
    obtain ⟨a, v⟩ := c
    unfold applyWrites
    split
    · exact ih (writeByte_wf h _ _)
    · exact ih h

theorem applyWrites_below {m : Memory} {limit : Nat} (h : Memory.below limit m) (l : List Host.Cell) :
    Memory.below limit (applyWrites limit m l) := by
  induction l generalizing m with
  | nil => exact h
  | cons c rest ih =>
    obtain ⟨a, v⟩ := c
    unfold applyWrites
    split
    · exact ih (writeByte_below h ‹_› _)
    · exact ih h

theorem storeEffect_wf {s : State} (h : Memory.wf s.mem) (w : Width) (a v : Word) :
    Memory.wf (storeEffect w a v s).mem := by
  unfold storeEffect
  split
  · exact h
  · exact storeBytes_wf h _ _ _

theorem reset_mem_wf : Memory.wf State.reset.mem := by decide

/-- An address below the first entry of a sorted memory reads as unlisted. -/
theorem readByte_of_lt {m : Memory} (a : Nat) (h : ∀ c ∈ m, a < c.1) : readByte m a = unlistedByte := by
  induction m with
  | nil => rfl
  | cons x rest ih =>
    obtain ⟨k, w⟩ := x
    have hk : a < k := h (k, w) (by simp)
    simp only [readByte, if_neg (by omega : ¬ k = a)]
    exact ih fun c hc => h c (by simp [hc])

theorem readByte_writeByte_same {m : Memory} (h : Memory.wf m) (a : Nat) (v : Byte) :
    readByte (writeByte m a v) a = v := by
  obtain ⟨hs, -⟩ := h
  induction m with
  | nil => unfold writeByte; split <;> simp_all [readByte]
  | cons x rest ih =>
    obtain ⟨k, w⟩ := x
    simp only [List.pairwise_cons] at hs
    unfold writeByte
    repeat' split
    · subst_vars
      refine readByte_of_lt a fun c hc => ?_
      rcases List.mem_cons.1 hc with rfl | hc
      · assumption
      · exact Nat.lt_trans ‹_› (hs.1 c hc)
    · simp [readByte]
    · subst_vars
      exact readByte_of_lt _ hs.1
    · simp [readByte]
    · simp only [readByte, if_neg (by omega : ¬ k = a)]
      exact ih hs.2

theorem readByte_writeByte_other (m : Memory) {a b : Nat} (hab : a ≠ b) (v : Byte) :
    readByte (writeByte m a v) b = readByte m b := by
  induction m with
  | nil => unfold writeByte; split <;> simp_all [readByte]
  | cons x rest ih =>
    obtain ⟨k, w⟩ := x
    unfold writeByte
    repeat' split
    all_goals simp_all [readByte]

/-- A store leaves every byte outside its lanes alone. -/
theorem readByte_writeLanes_other (m : Memory) (a : Nat) (d : Word) (n : Nat) {b : Nat} (h : b < a ∨ a + n ≤ b) :
    readByte (writeLanes m a d n) b = readByte m b := by
  induction n generalizing m a with
  | zero => rfl
  | succ n ih =>
    rw [writeLanes, ih _ _ (by omega), readByte_writeByte_other _ (by omega)]

/-- A store's lanes hold the bytes of the data bus. -/
theorem readByte_writeLanes_same {m : Memory} (h : Memory.wf m) (a : Nat) (d : Word) (n : Nat) {b : Nat} (ha : a ≤ b)
    (hb : b < a + n) : readByte (writeLanes m a d n) b = byteOf d (b % 4) := by
  induction n generalizing m a with
  | zero => omega
  | succ n ih =>
    rw [writeLanes]
    rcases Nat.lt_or_ge a b with hab | hab
    · exact ih (writeByte_wf h _ _) _ hab (by omega)
    · obtain rfl : a = b := by omega
      rw [readByte_writeLanes_other _ _ _ _ (.inl (by omega)), readByte_writeByte_same h]

end Sys2Proof.Machine
end

