-- ==== Sys2Proof/Laws/Pool.lean ====
section
/-! SUPPORT. The control-word pool: what borrowing gives, and that borrowing, returning and giving up a queue keep every
control word free or queued once (10_state.md R77, 40_sequencer.md R224). -/

namespace Sys2Proof.Machine

theorem storeWords_length (hs : List Nat) (ws a : List ControlWord) : (storeWords hs ws a).length = a.length := by
  induction hs generalizing ws a with
  | nil => cases ws <;> rfl
  | cons h hs ih => cases ws with
    | nil => rfl
    | cons w ws => simp [storeWords, ih]

/-- A control word not written is as before. -/
theorem storeWords_other {h : Nat} {hs : List Nat} (hn : h ∉ hs) (ws a : List ControlWord) :
    (storeWords hs ws a).getD h ipipeWord = a.getD h ipipeWord := by
  induction hs generalizing ws a with
  | nil => cases ws <;> rfl
  | cons k hs ih => cases ws with
    | nil => rfl
    | cons w ws =>
      simp only [List.mem_cons, not_or] at hn
      rw [storeWords, ih hn.2]
      simp [List.getD_eq_getElem?_getD, Ne.symm hn.1]

/-- Control words written at distinct names inside the array are read back. -/
theorem storeWords_get {hs : List Nat} {ws a : List ControlWord} (hl : hs.length = ws.length) (hn : hs.Nodup)
    (hb : ∀ h ∈ hs, h < a.length) : hs.map (fun h => (storeWords hs ws a).getD h ipipeWord) = ws := by
  induction hs generalizing ws a with
  | nil => cases ws with
    | nil => rfl
    | cons w ws => simp at hl
  | cons h hs ih => cases ws with
    | nil => simp at hl
    | cons w ws =>
      simp only [List.nodup_cons] at hn
      simp only [List.map_cons, storeWords]
      rw [storeWords_other hn.1, ih (by simpa using hl) hn.2 (by
        intro k hk
        simpa using hb k (List.mem_cons_of_mem h hk))]
      have := hb h (List.mem_cons_self ..)
      simp [this]

/-- What a borrow gives: the first free names, as many as asked for, and the rest of the free list; from a pool whose free
list is distinct and inside the array, these names hold the control words. -/
theorem borrow_eq_some {ws : List ControlWord} {p q : Pool} {hs : List Nat} (h : p.borrow ws = some (hs, q)) :
    p.free = hs ++ q.free ∧ hs.length = ws.length ∧ q.words.length = p.words.length ∧
    (p.free.Nodup → (∀ k ∈ p.free, k < p.words.length) → hs.map q.word = ws) := by
  unfold Pool.borrow at h
  split at h
  · cases h
  · next hlt =>
    simp only [Option.some.injEq, Prod.mk.injEq] at h
    obtain ⟨rfl, rfl⟩ := h
    have hlen : (p.free.take ws.length).length = ws.length := by simp; omega
    refine ⟨by simp, hlen, storeWords_length _ _ _, fun hn hb => ?_⟩
    exact storeWords_get hlen (hn.sublist (List.take_sublist ..)) fun k hk => hb k (List.mem_of_mem_take hk)

/-- A borrow fails only when too few control words are free (R224). -/
theorem borrow_eq_none {ws : List ControlWord} {p : Pool} : p.borrow ws = none ↔ p.free.length < ws.length := by
  unfold Pool.borrow
  split <;> simp_all

theorem releaseCurrent_poolForm {s : State} (h : poolForm s) : poolForm (releaseCurrent s) := by
  refine ⟨h.1, List.Perm.trans ?_ h.2⟩
  simp only [releaseCurrent, Pool.release, unexecuted, List.drop_nil, List.append_nil]
  exact List.perm_append_comm.append_right _

theorem releaseNext_poolForm {s : State} (h : poolForm s) : poolForm (releaseNext s) := by
  refine ⟨h.1, List.Perm.trans ?_ h.2⟩
  simp only [releaseNext, Pool.release, unexecuted, List.append_nil]
  rw [List.append_assoc]
  exact List.perm_append_comm

theorem releaseQueues_poolForm {s : State} (h : poolForm s) : poolForm (releaseQueues s) :=
  releaseNext_poolForm (releaseCurrent_poolForm h)

/-- A new current queue changes the queues and the pool alone. -/
theorem setQueue_frame {ws : List ControlWord} {s t : State} (e : setQueue ws s = .next t) :
    t = { s with pool := t.pool, seq := { s.seq with curQ := t.seq.curQ, idx := 0 } } := by
  simp only [setQueue] at e
  split at e
  · cases e
  · cases e
    rfl

/-- A new next queue changes the next queue and the pool alone. -/
theorem setNext_frame {ws : List ControlWord} {s t : State} (e : setNext ws s = .next t) :
    t = { s with pool := t.pool, seq := { s.seq with nextQ := t.seq.nextQ } } := by
  simp only [setNext] at e
  split at e
  · cases e
  · cases e
    rfl

/-- A new current queue keeps the form of the pool. -/
theorem setQueue_poolForm {ws : List ControlWord} {s t : State} (h : poolForm s) (e : setQueue ws s = .next t) :
    poolForm t := by
  have h1 := releaseCurrent_poolForm h
  simp only [setQueue] at e
  split at e
  · cases e
  · next r hr =>
    cases e
    obtain ⟨hf, -, hw, -⟩ := borrow_eq_some hr
    refine ⟨hw.trans h1.1, List.Perm.trans ?_ h1.2⟩
    rw [hf]
    simp only [unexecuted, releaseCurrent, List.drop_zero, List.drop_nil, List.append_nil]
    exact List.perm_append_comm.append_right _

/-- A new next queue keeps the form of the pool. -/
theorem setNext_poolForm {ws : List ControlWord} {s t : State} (h : poolForm s) (e : setNext ws s = .next t) :
    poolForm t := by
  have h1 := releaseNext_poolForm h
  simp only [setNext] at e
  split at e
  · cases e
  · next r hr =>
    cases e
    obtain ⟨hf, -, hw, -⟩ := borrow_eq_some hr
    refine ⟨hw.trans h1.1, List.Perm.trans ?_ h1.2⟩
    rw [hf]
    simp only [unexecuted, releaseNext, List.append_nil]
    exact List.perm_append_comm.trans (List.Perm.of_eq (List.append_assoc ..).symm)

/-- The executed control word returned keeps the form of the pool. -/
theorem completeStage_poolForm {s : State} (h : poolForm s) : poolForm (completeStage s) := by
  refine ⟨h.1, List.Perm.trans ?_ h.2⟩
  have hd : (unexecuted s).take 1 ++ s.seq.curQ.drop (s.seq.idx + 1) = unexecuted s := by
    rw [← List.drop_drop]
    exact List.take_append_drop 1 (s.seq.curQ.drop s.seq.idx)
  refine List.Perm.append_right _ (List.Perm.trans (List.perm_append_comm.append_right _) ?_)
  simp only [completeStage, unexecuted, List.append_assoc] at hd ⊢
  rw [hd]

/-- The pool after a reset has the form, the seed being the current queue. -/
theorem seededPool_perm {n : Nat} (h : 2 ≤ n) :
    (seededPool n).words.length = n ∧ ((seededPool n).free ++ [0, 1]).Perm (List.range n) := by
  obtain ⟨m, rfl⟩ := Nat.exists_eq_add_of_le h
  refine ⟨by simp [seededPool]; omega, ?_⟩
  rw [List.range_add, show List.range 2 = [0, 1] from rfl]
  refine List.perm_append_comm.trans (List.Perm.append_left _ (List.Perm.of_eq ?_))
  simp [seededPool, Nat.add_comm]

end Sys2Proof.Machine
end

