-- ==== Sys2Proof/Laws/Registers.lean ====
section
/-! SUPPORT. Registers and saved status registers read after a write, and which names share a place (10_state.md R34, R40,
R55). -/

namespace Sys2Proof.Machine

/-- One physical register after a write of a bank's register. -/
theorem writeBank_get (b : Bank) (i : Reg) (v : Word) (s : State) (q : Fin 30) :
    (writeBank b i v s).regs[q] = if phys b i = some q then v else s.regs[q] := by
  unfold writeBank
  cases h : phys b i with
  | none => simp
  | some p =>
    rcases Decidable.em (p = q) with rfl | hne
    · simp
    · have : p.val ≠ q.val := fun e => hne (Fin.ext e)
      simp [hne, this]

/-- One physical register after `x[i] <- v`. -/
theorem writeReg_get (i : Reg) (v : Word) (s : State) (q : Fin 30) :
    (writeReg i v s).regs[q] = if phys (modeBank s.cpsr.mode) i = some q then v else s.regs[q] :=
  writeBank_get _ i v s q

/-- The name of each place: R0 to R14, then R8 to R14 of FIQ, then R13 and R14 of the other banks. -/
def nameOf (q : Fin 30) : Nat := if q.val < 15 then q.val else if q.val < 22 then q.val - 7 else 13 + q.val % 2

theorem nameOf_phys (b : Bank) (i : Reg) : ∀ q, phys b i = some q → nameOf q = i.val := by
  cases b <;> revert i <;> decide

/-- Distinct names are distinct places, in whatever banks. -/
theorem phys_injective {b b' : Bank} {i j : Reg} {q : Fin 30} (h : phys b i = some q) (h' : phys b' j = some q) : i = j :=
  Fin.ext ((nameOf_phys b i q h).symm.trans (nameOf_phys b' j q h'))

theorem phys_isSome {b : Bank} {i : Reg} (h : i ≠ 15) : ∃ q, phys b i = some q := by
  revert h
  cases b <;> revert i <;> decide

theorem phys_fifteen (b : Bank) : phys b 15 = none := by cases b <;> decide

theorem readBank_writeBank_same (b : Bank) {i : Reg} (v : Word) (s : State) (h : i ≠ 15) :
    readBank (writeBank b i v s) b i = v := by
  obtain ⟨q, hq⟩ := phys_isSome (b := b) h
  have := writeBank_get b i v s q
  simp only [hq, if_true] at this
  simpa [readBank, hq] using this

theorem readBank_writeBank_other {b b' : Bank} {i j : Reg} (v : Word) (s : State) (h : i ≠ j) :
    readBank (writeBank b i v s) b' j = readBank s b' j := by
  unfold readBank
  cases hj : phys b' j with
  | none => simp
  | some q =>
    have := writeBank_get b i v s q
    rw [if_neg fun hi => h (phys_injective hi hj)] at this
    exact this

theorem readReg_writeReg_same {i : Reg} (v : Word) (s : State) (h : i ≠ 15) : readReg (writeReg i v s) i = v := by
  simpa [readReg, writeReg] using readBank_writeBank_same (modeBank s.cpsr.mode) v s h

theorem readReg_writeReg_other {i j : Reg} (v : Word) (s : State) (h : i ≠ j) :
    readReg (writeReg i v s) j = readReg s j := by
  simpa [readReg, writeReg] using readBank_writeBank_other (b' := modeBank s.cpsr.mode) v s h

/-- One saved status register after a write. -/
theorem writeSpsr_get (b : Bank) (v : Word) (s : State) (k : Fin 5) :
    (writeSpsr b v s).spsr[k] = if spsrIndex b = some k then v else s.spsr[k] := by
  unfold writeSpsr
  cases h : spsrIndex b with
  | none => simp
  | some p =>
    rcases Decidable.em (p = k) with rfl | hne
    · simp
    · have : p.val ≠ k.val := fun e => hne (Fin.ext e)
      simp [hne, this]

/-- What an entry writes: R14 of the mode entered, its SPSR, the CPSR. -/
theorem saveState_regs (e : Exc) (lr : Word) (s : State) (q : Fin 30) :
    (saveState e lr s).regs[q] = if phys (modeBank (excMode e)) 14 = some q then lr else s.regs[q] := by
  simpa [saveState] using writeBank_get (modeBank (excMode e)) 14 lr (writeSpsr (modeBank (excMode e)) (psrWord s.cpsr) s) q

theorem saveState_spsr (e : Exc) (lr : Word) (s : State) (k : Fin 5) :
    (saveState e lr s).spsr[k] = if spsrIndex (modeBank (excMode e)) = some k then psrWord s.cpsr else s.spsr[k] := by
  simpa [saveState] using writeSpsr_get (modeBank (excMode e)) (psrWord s.cpsr) s k

end Sys2Proof.Machine
end

