-- ==== Sys2Proof/Tests/Slice0.lean ====
section
/-! SUPPORT. Tests: ill-formed instructions refused, words written out from the format tables of 30_encoding.md decoded, one
step of each instruction on the values of 95_test_vectors.md, and a witness for the hypotheses of every statement. -/

namespace Sys2Proof.Tests
open Sys2Proof Sys2Proof.Machine

/-! Small states -/

/-- Reset, but for the pc of the vectors of 95_test_vectors.md. -/
def at8000 : State := { State.reset with pc := 0x8000 }

/-- Registers of the current mode. -/
def withRegs : List (Reg × Word) → State → State
  | [], s => s
  | (i, v) :: rest, s => withRegs rest (writeReg i v s)

/-- Words of memory. -/
def withWords : List (Word × Word) → State → State
  | [], s => s
  | (a, v) :: rest, s => withWords rest { s with mem := storeBytes s.mem .word a v }

/-- A CPSR by its word. -/
def withCpsr (v : Word) (s : State) : State :=
  match modeOfCode (v.extractLsb' 0 5) with
  | some m => { s with cpsr := psrOfWord v m }
  | none => s

/-- The SPSR of the current mode. -/
def withSpsr (v : Word) (s : State) : State := writeSpsr (modeBank s.cpsr.mode) v s

/-- A coprocessor plugged into a slot, with the lines it will drive. -/
def withCp (cp : Fin 16) (answers : List CpLines) (s : State) : State :=
  { s with cfg := { s.cfg with cpSlots := [cp] }, cpAnswers := s.cpAnswers.set cp answers }

/-- Nothing driven. -/
def silence : CpLines := { ack := false, abort := false, busy := false, dataIn := 0, last := false }

/-- A plug-in given as a function in a slot. -/
def withGiven (cp : Fin 16) (s : State) : State :=
  { s with cfg := { s.cfg with cpSlots := [cp], cpPlugIns := [cp] } }

/-- An acceptance, then these words, `last` with the final one. -/
def acceptance (vs : List Word) : List CpLines :=
  { silence with ack := true } :: (vs.zipIdx.map fun x =>
    { silence with dataIn := x.1, last := decide (x.2 + 1 = vs.length) })

/-- The step that runs a word ends as `post` says. -/
def ends (w : Word) (s : State) (post : State → Bool) : Bool :=
  match step (s.withFetchWord 32 w.toNat) with
  | .next t => post t
  | .fault _ => false
  | .refused _ => false

/-- The step that runs a word faults. -/
def faults (w : Word) (s : State) (e : Fault) : Bool :=
  match step (s.withFetchWord 32 w.toNat) with
  | .next _ => false
  | .fault e' => e == e'
  | .refused _ => false

/-- The step that runs a word is refused. -/
def refuses (w : Word) (s : State) (why : Unpredictable) : Bool :=
  match step (s.withFetchWord 32 w.toNat) with
  | .next _ => false
  | .fault _ => false
  | .refused r => r == .unpredictable why

/-- The four flags, as the vectors write them. -/
def nzcv (s : State) : BitVec 4 := BitVec.ofBool s.cpsr.n ++ BitVec.ofBool s.cpsr.z ++ BitVec.ofBool s.cpsr.c ++ BitVec.ofBool s.cpsr.v

/-- A result is a next state. -/
def isNext (r : Result) : Bool :=
  match r with
  | .next _ => true
  | .fault _ => false
  | .refused _ => false

/-- A result is a fault. -/
def isFault (r : Result) (e : Fault) : Bool :=
  match r with
  | .next _ => false
  | .fault e' => e' == e
  | .refused _ => false

theorem fault_of_isFault {r : Result} {e : Fault} (h : isFault r e = true) : r = .fault e := by
  cases r with
  | next t => simp [isFault] at h
  | fault e' => simpa [isFault] using h
  | refused e' => simp [isFault] at h

theorem exists_of_isNext {r : Result} (h : isNext r = true) : ∃ t, r = .next t := by
  cases r with
  | next t => exact ⟨t, rfl⟩
  | fault e => simp [isNext] at h
  | refused e => simp [isNext] at h

/-! Decoding (30_encoding.md R175 to R187): the fields of each word in the order of its format table -/

theorem test_decode_branch :
    decode 0b1110_101_0_000000000000000000000010 = .b .al 2 ∧
    decode 0b0001_101_1_111111111111111111111110 = .bl .ne 0xFFFFFE ∧
    decode 0b1110_1111_100000000000000000010000 = .swi .al 0x800010 := by decide

theorem test_decode_multiply :
    decode 0b1110_0000_000_1_0001_0000_0011_1001_0010 = .mul .al true 1 0 3 2 ∧
    decode 0b1110_0000_001_0_0001_0100_0011_1001_0010 = .mla .al false 1 4 3 2 := by decide

theorem test_decode_long_multiply :
    decode 0b1110_0000_100_0_0001_0100_0011_1001_0010 = .umull .al false 1 4 3 2 ∧
    decode 0b1110_0000_101_0_0001_0100_0011_1001_0010 = .umlal .al false 1 4 3 2 ∧
    decode 0b1110_0000_110_1_0001_0100_0011_1001_0010 = .smull .al true 1 4 3 2 ∧
    decode 0b1110_0000_111_0_0001_0100_0011_1001_0010 = .smlal .al false 1 4 3 2 := by decide

theorem test_decode_arithmetic :
    decode 0b0000_00_0_0010_1_0001_0010_00101_00_0_0011 = .sub .eq true 1 2 (.immShift 3 .lsl 5) ∧
    decode 0b1110_00_1_0011_0_0001_0010_0100_11111111 = .rsb .al false 1 2 (.imm 4 0xFF) ∧
    decode 0b1110_00_0_0100_0_0001_0010_0101_0_01_1_0011 = .add .al false 1 2 (.regShift 3 .lsr 5) ∧
    decode 0b1110_00_0_0101_0_0001_0010_00000_10_0_0011 = .adc .al false 1 2 (.immShift 3 .asr 0) ∧
    decode 0b1110_00_0_0110_1_0001_0010_00000_11_0_0011 = .sbc .al true 1 2 (.immShift 3 .ror 0) ∧
    decode 0b1110_00_0_0111_0_0001_0010_0101_0_11_1_0011 = .rsc .al false 1 2 (.regShift 3 .ror 5) := by decide

theorem test_decode_logical :
    decode 0b1110_00_0_0000_0_0001_0010_00000_00_0_0011 = .and .al false 1 2 (.immShift 3 .lsl 0) ∧
    decode 0b1110_00_0_0001_1_0001_0010_00000_00_0_0011 = .eor .al true 1 2 (.immShift 3 .lsl 0) ∧
    decode 0b1110_00_1_1100_0_0001_0010_0000_00000011 = .orr .al false 1 2 (.imm 0 3) ∧
    decode 0b1110_00_0_1101_1_0000_0010_00001_01_0_0011 = .mov .al true 0 2 (.immShift 3 .lsr 1) ∧
    decode 0b1110_00_0_1110_0_0001_0010_00000_00_0_0011 = .bic .al false 1 2 (.immShift 3 .lsl 0) ∧
    decode 0b1110_00_1_1111_0_0000_0010_1111_00000011 = .mvn .al false 0 2 (.imm 15 3) := by decide

theorem test_decode_compare :
    decode 0b1110_00_0_1000_1_0001_0000_00000_00_0_0011 = .tst .al 1 0 (.immShift 3 .lsl 0) ∧
    decode 0b1110_00_0_1001_1_0001_0000_00000_00_0_0011 = .teq .al 1 0 (.immShift 3 .lsl 0) ∧
    decode 0b1011_00_1_1010_1_0001_0000_0000_00000100 = .cmp .lt 1 0 (.imm 0 4) ∧
    decode 0b1110_00_0_1011_1_0001_0000_0101_0_10_1_0011 = .cmn .al 1 0 (.regShift 3 .asr 5) := by decide

theorem test_decode_word_transfer :
    decode 0b1110_01_0_1_1_0_1_1_0001_0010_000000000100 = .ldr .al .pre true 1 2 (.imm 4) ∧
    decode 0b1110_01_1_1_0_0_0_0_0001_0010_00010_00_0_0011 = .str .al .offset false 1 2 (.reg 3 .lsl 2) ∧
    decode 0b1110_01_0_0_1_1_0_1_0001_0010_000000000100 = .ldrb .al .post true 1 2 (.imm 4) ∧
    decode 0b1110_01_0_1_0_1_0_0_0001_0010_111111111111 = .strb .al .offset false 1 2 (.imm 0xFFF) := by decide

theorem test_decode_user_transfer :
    decode 0b1110_01_0_0_1_0_1_1_0001_0010_000000000100 = .ldrt .al true 1 2 (.imm 4) ∧
    decode 0b1110_01_0_0_0_0_1_0_0001_0010_000000000100 = .strt .al false 1 2 (.imm 4) ∧
    decode 0b1110_01_1_0_1_1_1_1_0001_0010_00011_11_0_0011 = .ldrbt .al true 1 2 (.reg 3 .ror 3) ∧
    decode 0b1110_01_0_0_1_1_1_0_0001_0010_000000000000 = .strbt .al true 1 2 (.imm 0) := by decide

theorem test_decode_half_transfer :
    decode 0b1110_000_1_0_1_1_0_0001_0010_1010_1_0_1_1_0101 = .strh .al true false true 1 2 (.imm 0xA5) ∧
    decode 0b1110_000_0_1_0_0_1_0001_0010_0000_1_0_1_1_0011 = .ldrh .al false true false 1 2 (.reg 0 3) ∧
    decode 0b1110_000_1_1_1_0_1_0001_0010_0000_1_1_0_1_0101 = .ldrsb .al true true false 1 2 (.imm 5) ∧
    decode 0b1110_000_1_1_0_0_1_0001_0010_0000_1_1_1_1_0011 = .ldrsh .al true true false 1 2 (.reg 0 3) := by decide

theorem test_decode_block_transfer :
    decode 0b1110_100_0_1_0_1_1_1101_1000000000000001 = .ldmia .al false true 13 0x8001 ∧
    decode 0b1110_100_1_1_1_0_1_0001_0000000000000110 = .ldmib .al true false 1 0x0006 ∧
    decode 0b1110_100_0_0_0_0_1_0001_0000000000000110 = .ldmda .al false false 1 0x0006 ∧
    decode 0b1110_100_1_0_0_1_1_0001_0000000000000110 = .ldmdb .al false true 1 0x0006 ∧
    decode 0b1110_100_0_1_0_1_0_0001_0000000000000110 = .stmia .al false true 1 0x0006 ∧
    decode 0b1110_100_1_1_0_0_0_0001_0000000000000110 = .stmib .al false false 1 0x0006 ∧
    decode 0b1110_100_0_0_1_0_0_0001_0000000000000110 = .stmda .al true false 1 0x0006 ∧
    decode 0b1110_100_1_0_0_1_0_1101_0100000000010000 = .stmdb .al false true 13 0x4010 := by decide

theorem test_decode_swap :
    decode 0b1110_00010_0_00_0010_0001_00001001_0011 = .swp .al 2 1 3 ∧
    decode 0b1110_00010_1_00_0010_0001_00001001_0011 = .swpb .al 2 1 3 := by decide

theorem test_decode_psr_transfer :
    decode 0b1110_00010_0_001111_0010_000000000000 = .mrsCpsr .al 2 ∧
    decode 0b1110_00010_1_001111_0010_000000000000 = .mrsSpsr .al 2 ∧
    decode 0b1110_00010_1_10_1001_1111_00000000_0011 = .msrReg .al .spsr 0b1001 3 ∧
    decode 0b1110_00110_0_10_1000_1111_0100_11110000 = .msrImm .al .cpsr 0b1000 4 0xF0 := by decide

theorem test_decode_coprocessor :
    decode 0b1110_1110_0001_0010_0011_0101_110_0_0100 = .cdp .al 1 2 3 5 6 4 ∧
    decode 0b1110_110_1_0_1_1_1_0010_0011_0101_00000111 = .ldc .al true false true true 2 3 5 7 ∧
    decode 0b1110_110_0_1_0_1_0_0010_0011_0101_00000111 = .stc .al false true false true 2 3 5 7 ∧
    decode 0b1110_1110_010_0_0011_0001_0101_110_1_0100 = .mcr .al 2 3 1 5 6 4 ∧
    decode 0b1110_1110_010_1_0011_0001_0101_110_1_0100 = .mrc .al 2 3 1 5 6 4 := by decide

/-- R171, R174, R196: NV, a multiply opcode that names none, a store with `S = 1`, a register offset with bit 4. -/
theorem test_decode_undefined :
    decode 0xF3A00005 = .undefined 0xF3A00005 ∧ decode 0xE0400291 = .undefined 0xE0400291 ∧
    decode 0xE1C100D0 = .undefined 0xE1C100D0 ∧ decode 0xE7F000F0 = .undefined 0xE7F000F0 := by decide

theorem test_decode_table_word :
    decodeTableWord 32 0xE3A00005 = some (.mov .al false 0 0 (.imm 0 5)) := by decide

/-! Ill-formed instructions (00_scope.md R17), one for each check -/

theorem test_smoke_well_formed :
    (Instr.mov .al false 0 0 (.imm 0 5)).wellFormed = true ∧ (Instr.undefined 0xE7F000F0).wellFormed = true := by decide

theorem test_smoke_undefined_word : (Instr.undefined 0xE3A00005).wellFormed = false := by decide

theorem test_smoke_data_processing :
    (Instr.mov .al false 3 0 (.immShift 1 .lsl 0)).wellFormed = false ∧
    (Instr.cmp .al 0 1 (.imm 0 0)).wellFormed = false ∧
    (Instr.add .al false 1 0 (.regShift 2 .lsl 15)).wellFormed = false ∧
    (Instr.add .al false 1 0 (.regShift 15 .lsl 2)).wellFormed = false ∧
    (Instr.add .al false 15 0 (.regShift 1 .lsl 2)).wellFormed = false ∧
    (Instr.add .al false 1 15 (.regShift 1 .lsl 2)).wellFormed = false ∧
    (Instr.tst .al 15 0 (.regShift 1 .lsl 2)).wellFormed = false := by decide

theorem test_smoke_multiply :
    (Instr.mul .al false 15 0 0 1).wellFormed = false ∧ (Instr.mul .al false 0 0 1 0).wellFormed = false ∧
    (Instr.mul .al false 0 1 2 1).wellFormed = false ∧ (Instr.mla .al false 0 15 2 1).wellFormed = false ∧
    (Instr.mla .al false 0 1 1 0).wellFormed = false ∧ (Instr.umull .al false 0 15 2 1).wellFormed = false ∧
    (Instr.umull .al false 0 0 2 1).wellFormed = false ∧ (Instr.smull .al false 1 0 2 1).wellFormed = false ∧
    (Instr.smlal .al false 0 1 2 1).wellFormed = false := by decide

theorem test_smoke_single_transfer :
    (Instr.ldr .al .pre true 15 0 (.imm 4)).wellFormed = false ∧
    (Instr.ldr .al .pre true 1 1 (.imm 4)).wellFormed = false ∧
    (Instr.str .al .offset true 1 0 (.reg 15 .lsl 0)).wellFormed = false ∧
    (Instr.ldr .al .post true 1 0 (.reg 1 .lsl 0)).wellFormed = false ∧
    (Instr.ldrb .al .offset true 1 15 (.imm 0)).wellFormed = false ∧
    (Instr.strt .al true 1 1 (.imm 0)).wellFormed = false := by decide

theorem test_smoke_half_transfer :
    (Instr.ldrh .al false true true 1 0 (.imm 0)).wellFormed = false ∧
    (Instr.ldrh .al true true false 1 15 (.imm 0)).wellFormed = false ∧
    (Instr.strh .al true true true 15 0 (.imm 0)).wellFormed = false ∧
    (Instr.ldrsb .al true true true 1 1 (.imm 0)).wellFormed = false ∧
    (Instr.ldrsh .al true true false 1 0 (.reg 0 15)).wellFormed = false ∧
    (Instr.ldrh .al true true false 1 0 (.reg 1 2)).wellFormed = false := by decide

theorem test_smoke_swap :
    (Instr.swp .al 1 15 2).wellFormed = false ∧ (Instr.swp .al 0 0 1).wellFormed = false ∧
    (Instr.swpb .al 1 0 1).wellFormed = false := by decide

theorem test_smoke_block_transfer :
    (Instr.ldmia .al false false 0 0).wellFormed = false ∧ (Instr.ldmia .al false false 15 1).wellFormed = false ∧
    (Instr.ldmia .al false true 0 3).wellFormed = false ∧ (Instr.ldmib .al true true 0 2).wellFormed = false ∧
    (Instr.stmia .al false true 1 3).wellFormed = false ∧ (Instr.stmdb .al true true 0 2).wellFormed = false ∧
    (Instr.stmda .al false false 15 1).wellFormed = false ∧ (Instr.stmib .al false false 0 0).wellFormed = false := by
  decide

theorem test_smoke_psr_and_coprocessor :
    (Instr.mrsCpsr .al 15).wellFormed = false ∧ (Instr.mrsSpsr .al 15).wellFormed = false ∧
    (Instr.msrReg .al .cpsr 1 15).wellFormed = false ∧ (Instr.mcr .al 0 0 15 1 0 0).wellFormed = false ∧
    (Instr.ldc .al false true false false 0 0 1 0).wellFormed = false ∧
    (Instr.stc .al true true false true 15 0 1 0).wellFormed = false := by decide

/-! One step of each instruction; the values are those of 95_test_vectors.md, 2.4 to 2.14 -/

theorem test_step_b : ends 0xEA000002 at8000 (fun t => t.pc == 0x8010) = true := by decide
theorem test_step_b_wraps : ends 0xEA800000 at8000 (fun t => t.pc == 0xFE008008) = true := by decide
theorem test_step_bl : ends 0xEB00000E at8000 (fun t => t.pc == 0x8040 && readReg t 14 == 0x8004) = true := by decide
theorem test_step_bl_fails :
    ends 0x1B00000E (withCpsr 0x400000D3 at8000) (fun t => t.pc == 0x8004 && readReg t 14 == 0) = true := by decide
theorem test_step_swi_trap :
    ends 0xEF000010 (withCpsr 0x20000010 at8000) (fun t => psrWord t.cpsr == 0x20000093 && t.pc == 8 &&
      readReg t 14 == 0x8004 && readSpsr t == some 0x20000010) = true := by decide
theorem test_step_mul :
    ends 0xE0000291 (withRegs [(1, 6), (2, 7)] at8000) (fun t => readReg t 0 == 0x2A) = true := by decide
theorem test_step_muls :
    ends 0xE0100291 (withRegs [(1, 0x80000000), (2, 2)] (withCpsr 0x900000D3 at8000))
      (fun t => readReg t 0 == 0 && t.cpsr.z && !t.cpsr.n && t.cpsr.v) = true := by decide
theorem test_step_mla :
    ends 0xE0203291 (withRegs [(1, 3), (2, 4), (3, 5)] at8000) (fun t => readReg t 0 == 0x11) = true := by decide
theorem test_step_umull :
    ends 0xE0810392 (withRegs [(2, 0xFFFFFFFF), (3, 0xFFFFFFFF)] at8000)
      (fun t => readReg t 1 == 0xFFFFFFFE && readReg t 0 == 1) = true := by decide
theorem test_step_umlal :
    ends 0xE0A10392 (withRegs [(0, 0xFFFFFFFF), (1, 0), (2, 1), (3, 1)] at8000)
      (fun t => readReg t 1 == 1 && readReg t 0 == 0) = true := by decide
theorem test_step_smull :
    ends 0xE0C10392 (withRegs [(2, 0x80000000), (3, 0x7FFFFFFF)] at8000)
      (fun t => readReg t 1 == 0xC0000000 && readReg t 0 == 0x80000000) = true := by decide
theorem test_step_smlal :
    ends 0xE0E10392 (withRegs [(0, 0), (1, 0x80000000), (2, 0x80000000), (3, 0xFFFFFFFF)] at8000)
      (fun t => readReg t 1 == 0x80000000 && readReg t 0 == 0x80000000) = true := by decide
theorem test_step_mov :
    ends 0xE3A00005 at8000 (fun t => readReg t 0 == 5 && t.pc == 0x8004 && nzcv t == 0) = true := by decide
theorem test_step_movs_shifted :
    ends 0xE1B00081 (withRegs [(1, 0x80000001)] (withCpsr 0x100000D3 at8000))
      (fun t => readReg t 0 == 2 && nzcv t == 0b0011) = true := by decide
theorem test_step_movs_pc :
    ends 0xE1B0F00E (withRegs [(14, 0x8004)] (withSpsr 0x20000010 at8000))
      (fun t => t.pc == 0x8004 && psrWord t.cpsr == 0x20000010) = true := by decide
theorem test_step_mov_pc_unaligned :
    faults 0xE1A0F000 (withRegs [(0, 0x8002)] at8000) .unalignedPc = true := by decide
theorem test_step_movs_pc_user :
    faults 0xE1B0F00E (withRegs [(14, 0x8004)] (withCpsr 0x10 at8000)) .noSpsr = true := by decide
theorem test_step_mvn : ends 0xE3F00000 at8000 (fun t => readReg t 0 == 0xFFFFFFFF && nzcv t == 0b1000) = true := by
  decide
theorem test_step_and :
    ends 0xE0000001 (withRegs [(0, 0xF0F0F0F0), (1, 0xFF00FF00)] at8000) (fun t => readReg t 0 == 0xF000F000) = true := by
  decide
theorem test_step_eors :
    ends 0xE0300001 (withRegs [(0, 0xFFFFFFFF), (1, 0xFFFFFFFF)] (withCpsr 0x200000D3 at8000))
      (fun t => readReg t 0 == 0 && nzcv t == 0b0110) = true := by decide
theorem test_step_orr :
    ends 0xE1800001 (withRegs [(0, 0xF0), (1, 0x0F)] at8000) (fun t => readReg t 0 == 0xFF) = true := by decide
theorem test_step_bic :
    ends 0xE1C00001 (withRegs [(0, 0xFF), (1, 0x0F)] at8000) (fun t => readReg t 0 == 0xF0) = true := by decide
theorem test_step_adds_wraps :
    ends 0xE0910002 (withRegs [(1, 0xFFFFFFFF), (2, 1)] at8000)
      (fun t => readReg t 0 == 0 && nzcv t == 0b0110 && t.pc == 0x8004) = true := by decide
theorem test_step_add_pc :
    ends 0xE08F0000 (withRegs [(0, 4)] at8000) (fun t => readReg t 0 == 0x800C) = true := by decide
theorem test_step_adc :
    ends 0xE0A00001 (withRegs [(0, 1), (1, 1)] (withCpsr 0x200000D3 at8000))
      (fun t => readReg t 0 == 3 && nzcv t == 0b0010) = true := by decide
theorem test_step_subs :
    ends 0xE0500001 (withRegs [(0, 0), (1, 1)] at8000) (fun t => readReg t 0 == 0xFFFFFFFF && nzcv t == 0b1000) = true := by
  decide
theorem test_step_sbcs :
    ends 0xE0D00001 (withRegs [(0, 5), (1, 5)] at8000) (fun t => readReg t 0 == 0xFFFFFFFF && nzcv t == 0b1000) = true := by
  decide
theorem test_step_rsb :
    ends 0xE2600000 (withRegs [(0, 5)] at8000) (fun t => readReg t 0 == 0xFFFFFFFB && nzcv t == 0) = true := by decide
theorem test_step_rscs :
    ends 0xE0F00001 (withRegs [(0, 5), (1, 5)] (withCpsr 0x200000D3 at8000))
      (fun t => readReg t 0 == 0 && nzcv t == 0b0110) = true := by decide
theorem test_step_tst :
    ends 0xE1100001 (withRegs [(0, 0x0F), (1, 0xF0)] at8000) (fun t => nzcv t == 0b0100 && readReg t 0 == 0x0F) = true := by
  decide
theorem test_step_teq :
    ends 0xE1300000 (withRegs [(0, 0x80000000)] at8000) (fun t => nzcv t == 0b0100) = true := by decide
theorem test_step_cmp :
    ends 0xE1500001 (withRegs [(0, 3), (1, 4)] at8000) (fun t => nzcv t == 0b1000 && readReg t 0 == 3) = true := by decide
theorem test_step_cmn :
    ends 0xE1700001 (withRegs [(0, 0x7FFFFFFF), (1, 1)] at8000) (fun t => nzcv t == 0b1001) = true := by decide
theorem test_step_failed_condition :
    ends 0x03A00001 (withRegs [(0, 9)] at8000) (fun t => readReg t 0 == 9 && t.pc == 0x8004) = true := by decide
theorem test_step_refused_shift : refuses 0xE0810F12 at8000 .pcInRegisterShift = true := by decide
theorem test_step_refused_sbz : refuses 0xE1A30001 at8000 .sbzNotZero = true := by decide

/-- The memory of 2.8. -/
def withData : State := withWords [(0x100, 0x11223344), (0x104, 0x8899AABB)] at8000

theorem test_step_ldr_rotates :
    ends 0xE5910000 (withRegs [(1, 0x101)] withData) (fun t => readReg t 0 == 0x44112233) = true := by decide
theorem test_step_ldr_scaled :
    ends 0xE7110102 (withRegs [(1, 0x108), (2, 1)] withData)
      (fun t => readReg t 0 == 0x8899AABB && readReg t 1 == 0x108) = true := by decide
theorem test_step_ldr_pc :
    ends 0xE591F000 (withRegs [(1, 0x100)] (withWords [(0x100, 0x8001)] at8000)) (fun t => t.pc == 0x8000) = true := by
  decide
theorem test_step_ldr_pc_unaligned : faults 0xE591F000 (withRegs [(1, 0x102)] withData) .unalignedLoadPc = true := by
  decide
theorem test_step_ldr_outside : faults 0xE5910000 (withRegs [(1, 0x100)] { at8000 with
    cfg := { at8000.cfg with memLimit := 0x100 }, pc := 0 }) .outsideMemory = true := by decide
theorem test_step_ldrt :
    ends 0xE4B10000 (withRegs [(1, 0x104)] withData)
      (fun t => readReg t 0 == 0x8899AABB && readReg t 1 == 0x104) = true := by decide
theorem test_step_ldrb :
    ends 0xE5D10000 (withRegs [(1, 0x107)] withData) (fun t => readReg t 0 == 0x88) = true := by decide
theorem test_step_ldrbt :
    ends 0xE4F10001 (withRegs [(1, 0x101)] withData)
      (fun t => readReg t 0 == 0x33 && readReg t 1 == 0x102) = true := by decide
theorem test_step_ldrh :
    ends 0xE1D100B0 (withRegs [(1, 0x102)] withData) (fun t => readReg t 0 == 0x1122) = true := by decide
theorem test_step_ldrh_odd : faults 0xE1D100B0 (withRegs [(1, 0x101)] withData) .oddHalfword = true := by decide
theorem test_step_ldrsh :
    ends 0xE1D100F0 (withRegs [(1, 0x106)] withData) (fun t => readReg t 0 == 0xFFFF8899) = true := by decide
theorem test_step_ldrsb :
    ends 0xE1D100D0 (withRegs [(1, 0x107)] withData) (fun t => readReg t 0 == 0xFFFFFF88) = true := by decide
theorem test_step_str :
    ends 0xE5210004 (withRegs [(0, 7), (1, 0x108)] withData)
      (fun t => readReg t 1 == 0x104 && wordAt t.mem 0x104 == 7) = true := by decide
theorem test_step_str_window : faults 0xE5810000 (withRegs [(1, 0x800B)] at8000) .prefetchWindow = true := by decide
theorem test_step_strt :
    ends 0xE4A10004 (withRegs [(0, 7), (1, 0x100)] withData)
      (fun t => readReg t 1 == 0x104 && wordAt t.mem 0x100 == 7) = true := by decide
/-- R111, R118: bits 1:0 of a word's address are ignored, an earlier event stays. -/
theorem test_step_strt_peripheral :
    ends 0xE4A10004 (withRegs [(0, 7), (1, 0x80000003)] { at8000 with periphWrites := [wordEvent 0x80000010 1] })
      (fun t => t.periphWrites == [wordEvent 0x80000010 1, { addr := 0x80000000, data := 7, width := .word }] &&
        readReg t 1 == 0x80000007) = true := by decide
theorem test_step_strb :
    ends 0xE5C10000 (withRegs [(0, 0xAABBCCDD), (1, 0x101)] withData) (fun t => wordAt t.mem 0x100 == 0x1122DD44) = true := by
  decide
theorem test_step_strbt :
    ends 0xE4E10001 (withRegs [(0, 0xAABBCCDD), (1, 0x101)] withData)
      (fun t => wordAt t.mem 0x100 == 0x1122DD44 && readReg t 1 == 0x102) = true := by decide
theorem test_step_strh :
    ends 0xE1C100B0 (withRegs [(0, 0xAABBCCDD), (1, 0x102)] withData) (fun t => wordAt t.mem 0x100 == 0xCCDD3344) = true := by
  decide
theorem test_step_swp :
    ends 0xE1020090 (withRegs [(0, 7), (2, 0x104)] withData)
      (fun t => readReg t 0 == 0x8899AABB && wordAt t.mem 0x104 == 7) = true := by decide
theorem test_step_swpb :
    ends 0xE1420091 (withRegs [(1, 0x1234), (2, 0x105)] withData)
      (fun t => readReg t 0 == 0xAA && wordAt t.mem 0x104 == 0x889934BB) = true := by decide

/-- The memory of 2.10: every word holds its own address. -/
def withTable : State :=
  withWords [(0xFF4, 0xFF4), (0xFF8, 0xFF8), (0xFFC, 0xFFC), (0x1000, 0x1000), (0x1004, 0x1004), (0x1008, 0x1008),
    (0x100C, 0x100C)] (withRegs [(0, 0x1000), (1, 0x11), (2, 0x22), (3, 0x33)] at8000)

/-- R1, R3 and R0 of a state. -/
def r1r3r0 (t : State) : Word × Word × Word := (readReg t 1, readReg t 3, readReg t 0)

theorem test_step_ldmia : ends 0xE8B0000E withTable (fun t => r1r3r0 t == (0x1000, 0x1008, 0x100C)) = true := by decide
theorem test_step_ldmib : ends 0xE9B0000E withTable (fun t => r1r3r0 t == (0x1004, 0x100C, 0x100C)) = true := by decide
theorem test_step_ldmda : ends 0xE830000E withTable (fun t => r1r3r0 t == (0xFF8, 0x1000, 0xFF4)) = true := by decide
theorem test_step_ldmdb : ends 0xE930000E withTable (fun t => r1r3r0 t == (0xFF4, 0xFFC, 0xFF4)) = true := by decide
theorem test_step_ldm_pc :
    ends 0xE8FD8001 (withRegs [(13, 0x1FF8)] (withSpsr 0x60000010 (withCpsr 0x600000D2
        (withWords [(0x1FF8, 1), (0x1FFC, 0x8004)] at8000))))
      (fun t => readReg t 0 == 1 && readBank t .irq 13 == 0x2000 && psrWord t.cpsr == 0x60000010 && t.pc == 0x8004) =
      true := by decide
theorem test_step_stmia :
    ends 0xE8A0000E withTable
      (fun t => wordAt t.mem 0x1000 == 0x11 && wordAt t.mem 0x1008 == 0x33 && readReg t 0 == 0x100C) = true := by decide
theorem test_step_stmia_base :
    ends 0xE8A00003 (withRegs [(1, 5)] withTable)
      (fun t => wordAt t.mem 0x1000 == 0x1000 && wordAt t.mem 0x1004 == 5 && readReg t 0 == 0x1008) = true := by decide
theorem test_step_stmib :
    ends 0xE9A0000E withTable
      (fun t => wordAt t.mem 0x1004 == 0x11 && wordAt t.mem 0x100C == 0x33 && readReg t 0 == 0x100C) = true := by decide
theorem test_step_stmda :
    ends 0xE820000E withTable
      (fun t => wordAt t.mem 0xFF8 == 0x11 && wordAt t.mem 0x1000 == 0x33 && readReg t 0 == 0xFF4) = true := by decide
theorem test_step_stmdb :
    ends 0xE920000E withTable
      (fun t => wordAt t.mem 0xFF4 == 0x11 && wordAt t.mem 0xFFC == 0x33 && readReg t 0 == 0xFF4) = true := by decide
/-- R118, R461: one event a word, ascending, bits 1:0 ignored. -/
theorem test_step_stmdb_peripheral :
    ends 0xE900000E (withRegs [(0, 0x80000012)] withTable)
      (fun t => t.periphWrites.map (fun e => (e.addr, e.data)) ==
        [(0x80000004, 0x11), (0x80000008, 0x22), (0x8000000C, 0x33)]) = true := by decide
theorem test_step_stm_user_bank :
    ends 0xE8C06000 (writeBank .usr 13 0xA (writeBank .usr 14 0xB withTable))
      (fun t => wordAt t.mem 0x1000 == 0xA && wordAt t.mem 0x1004 == 0xB) = true := by decide

theorem test_step_mrs_cpsr :
    ends 0xE10F0000 (withCpsr 0x600000D3 at8000) (fun t => readReg t 0 == 0x600000D3) = true := by decide
theorem test_step_mrs_spsr :
    ends 0xE14F0000 (withSpsr 0x80000010 at8000) (fun t => readReg t 0 == 0x80000010) = true := by decide
theorem test_step_mrs_spsr_user : faults 0xE14F0000 (withCpsr 0x10 at8000) .noSpsr = true := by decide
theorem test_step_msr_immediate :
    ends 0xE321F0D2 at8000 (fun t => t.cpsr.mode == .irq && t.cpsr.i && t.cpsr.f) = true := by decide
theorem test_step_msr_user :
    ends 0xE121F000 (withRegs [(0, 0x13)] (withCpsr 0x10 at8000)) (fun t => psrWord t.cpsr == 0x10) = true := by decide
theorem test_step_msr_spsr :
    ends 0xE16FF000 (withRegs [(0, 0xF00000D3)] at8000) (fun t => readSpsr t == some 0xF00000D3) = true := by decide
theorem test_step_msr_thumb : faults 0xE321F030 at8000 .thumbState = true := by decide
theorem test_step_msr_invalid_mode : faults 0xE321F0D5 at8000 .invalidMode = true := by decide

theorem test_step_cdp_empty_slot :
    ends 0xEE010102 at8000 (fun t => t.cpsr.mode == .und && t.pc == 4 && readReg t 14 == 0x8004) = true := by decide
theorem test_step_cdp :
    ends 0xEE010102 (withCp 1 (acceptance []) at8000) (fun t => t.pc == 0x8004 && t.cpsr.mode == .svc) = true := by decide
theorem test_step_mrc :
    ends 0xEE100F10 (withCp 15 (acceptance [0x41007700]) at8000) (fun t => readReg t 0 == 0x41007700) = true := by decide
theorem test_step_mrc_flags :
    ends 0xEE10FF10 (withCp 15 (acceptance [0xA0000123]) at8000) (fun t => nzcv t == 0b1010 && t.pc == 0x8004) = true := by
  decide
theorem test_step_mcr :
    ends 0xEE010F10 (withCp 15 (acceptance [0]) (withRegs [(0, 0x1234)] at8000)) (fun t => t.cp.sent == [0x1234]) = true := by
  decide
theorem test_step_ldc :
    ends 0xEDB00102 (withCp 1 (acceptance [0, 0]) (withWords [(0x1008, 0xAA), (0x100C, 0xBB)] (withRegs [(0, 0x1000)] at8000)))
      (fun t => t.cp.sent == [0xAA, 0xBB] && readReg t 0 == 0x1008) = true := by decide
theorem test_step_stc :
    ends 0xEDA00102 (withCp 1 (acceptance [0xCC, 0xDD]) (withRegs [(0, 0x1000)] at8000))
      (fun t => wordAt t.mem 0x1008 == 0xCC && wordAt t.mem 0x100C == 0xDD && readReg t 0 == 0x1008) = true := by decide
theorem test_step_undefined :
    ends 0xE7F000F0 (withCpsr 0x60000010 at8000) (fun t => psrWord t.cpsr == 0x6000009B && t.pc == 4 &&
      readReg t 14 == 0x8004 && readSpsr t == some 0x60000010) = true := by decide

/-- R318: the vector of 1.10. -/
def withCallback (a : SwiAnswer) : State :=
  withRegs [(0, 2), (1, 3)] { at8000 with cfg := { at8000.cfg with swiTable := [1] }, swiAnswers := [a] }

theorem test_step_swi_callback :
    ends 0xEF000001 (withCallback { result := 5, writes := [] })
      (fun t => readReg t 0 == 5 && readReg t 1 == 3 && t.pc == 0x8004 && t.flushRequest && t.cpsr.mode == .svc) = true := by
  decide

/-- R563: with both pending, FIQ is taken and IRQ stays pending. -/
theorem test_step_fiq_first :
    (match step (withCpsr 0x60000010 { at8000 with pc := 0x8004, irq := { at8000.irq with irqPending := true, fiqPending := true } }) with
      | .next t => psrWord t.cpsr == 0x600000D1 && readReg t 14 == 0x8008 && t.pc == 0x1C && t.irq.irqPending
      | .fault _ => false
      | .refused _ => false) = true := by decide

/-! Witnesses: for each statement with hypotheses, values that meet all of them -/

/-- A state between two instructions: the pipe filled, the word given next. -/
def ready (w : Nat) : State := beginStep (at8000.withFetchWord 32 w)

/-- A state whose memory ends at 0x10000 and whose peripherals are 16 bytes. -/
def small : State :=
  { at8000 with cfg := { at8000.cfg with memLimit := 0x10000, periphMap := [{ base := 0x80000000, size := 16 }] } }

theorem witness_DecodeOfEncode :
    (Instr.ldmib .al true false 14 0xFFFF).wellFormed = true := by decide

theorem witness_NvWordsAreUndefined : Instr.cond (decode 0x0A000000) = some .eq ∧
    Instr.cond (decode 0xEA000000) = some .al ∧ (0xF0000000 : Word).extractLsb' 28 4 = 0b1111#4 ∧
    (0xFFFFFFFF : Word).extractLsb' 28 4 = 0b1111#4 := by decide

theorem witness_StepRunsTheDecodedInstruction :
    (ready 0xE3A00005).pipe.valid = true ∧ pipeContents (ready 0xE3A00005) ∧ runsInstruction (ready 0xE3A00005) ∧
    inMemory (ready 0xE3A00005).cfg (ready 0xE3A00005).pc ∧
    decode (wordAt (ready 0xE3A00005).mem (ready 0xE3A00005).pc.toNat) = .mov .al false 0 0 (.imm 0 5) ∧
    (Instr.mov .al false 0 0 (.imm 0 5)).wellFormed = true := by decide

theorem witness_EmptyPipeRefillsFromMemory : Inv State.reset ∧ State.reset.pipe.valid = false :=
  ⟨⟨by decide, by decide, by decide, by decide, by decide, by decide, by decide, by decide, by decide⟩, rfl⟩

theorem witness_FetchOutsideMemoryStops :
    (let s := jump 0x80000000 State.reset;
      s.pipe.valid = true ∧ pipeContents s ∧ runsInstruction s ∧ 2 ^ 31 ≤ s.pc.toNat) ∧
    (let s := jump 0x10000 small;
      s.pipe.valid = true ∧ pipeContents s ∧ runsInstruction s ∧ s.cfg.memLimit ≤ s.pc.toNat) := by decide

/-- Pending interrupts and the four mask and level bits. -/
def pending (irq fiq i f : Bool) (l : Lines) : State :=
  { ready 0xE3A00005 with
    irq := { prevNIRQ := true, prevNFIQ := true, irqPending := irq, fiqPending := fiq }
    cpsr := { at8000.cpsr with i := i, f := f }
    lines := l }

/-- The three clauses, each from the levels as they stand and from a sample: FIQ pending or falling now; IRQ with FIQ masked
or not pending; nothing to take, or a handshake. -/
theorem witness_InterruptsAreTaken :
    (let s := pending true true false false { nIRQ := true, nFIQ := true };
      sampled s s.lines [] ∧ s.cp.request = false ∧ s.irq.fiqPending = true ∧ s.cpsr.f = false) ∧
    (let s := { pending false false false false { nIRQ := true, nFIQ := true } with
        inputs := [{ nIRQ := false, nFIQ := false, reset := false }] };
      (∃ x, s.inputs = x :: [] ∧ x.reset = false ∧ ({ nIRQ := false, nFIQ := false } : Lines) = { nIRQ := x.nIRQ, nFIQ := x.nFIQ }) ∧
      s.irq.prevNFIQ = true ∧ s.irq.prevNIRQ = true ∧ s.cpsr.f = false ∧ s.cpsr.i = false) ∧
    (let s := pending true true false true { nIRQ := true, nFIQ := false };
      sampled s s.lines [] ∧ s.cp.request = false ∧ s.irq.irqPending = true ∧ s.cpsr.i = false ∧ s.cpsr.f = true) ∧
    (let s := pending true false false false { nIRQ := true, nFIQ := true };
      sampled s s.lines [] ∧ s.cp.request = false ∧ s.irq.irqPending = true ∧ s.cpsr.i = false ∧
        s.irq.fiqPending = false ∧ s.lines.nFIQ = true) ∧
    (let s := pending true true true true { nIRQ := true, nFIQ := true };
      sampled s s.lines [] ∧ s.cpsr.f = true ∧ s.cpsr.i = true) ∧
    (let s := driveRequest 0xEE010F10 (pending true true false false { nIRQ := true, nFIQ := true });
      sampled s s.lines [] ∧ s.cp.request = true) :=
  ⟨⟨.inl (by decide), by decide⟩, ⟨⟨_, rfl, by decide⟩, by decide⟩, ⟨.inl (by decide), by decide⟩,
    ⟨.inl (by decide), by decide⟩, ⟨.inl (by decide), by decide⟩, .inl (by decide), by decide⟩

theorem witness_ExceptionEntry : isEntry .undefined ∧ isEntry .fiq ∧
    ∃ t, t = enterException .fiq 0x8008 at8000 := ⟨by decide, by decide, _, rfl⟩

theorem witness_ExceptionRoundTrip : isEntry .dataAbort ∧ isEntry .irq := by decide

theorem witness_RestoreCpsrCases :
    (withCpsr 0x10 at8000).cpsr.mode = .usr ∧ (withCpsr 0x1F at8000).cpsr.mode = .sys ∧
    (readSpsr (withSpsr 0x30 at8000) = some 0x30 ∧ (0x30 : Word).getLsbD 5 = true) ∧
    (readSpsr (withSpsr 0x15 at8000) = some 0x15 ∧ (0x15 : Word).getLsbD 5 = false ∧
      modeOfCode ((0x15 : Word).extractLsb' 0 5) = none) ∧
    (readSpsr (withSpsr 0xF000001F at8000) = some 0xF000001F ∧ (0xF000001F : Word).getLsbD 5 = false ∧
      modeOfCode ((0xF000001F : Word).extractLsb' 0 5) = some .sys) := by decide

theorem witness_SynchronousTraps :
    condPassed .al at8000.cpsr = true ∧ swiRegistered at8000.cfg ((0x10 : BitVec 24).toNat % 2 ^ 23) = false := by decide

theorem witness_SwiWithCallback :
    (let s := withCallback { result := 5, writes := [(0x8003, 1), (0x800C, 2), (0x80000000, 3)] };
      condPassed .al s.cpsr = true ∧ swiRegistered s.cfg ((0x800001 : BitVec 24).toNat % 2 ^ 23) = true ∧
      ∀ x ∈ (nextCallback 1 s).1.writes, x.1 < s.cfg.memLimit → inPrefetchWindow s.pc x.1 = false) ∧
    (let s := withCallback { result := 5, writes := [(0x8004, 1)] };
      condPassed .al s.cpsr = true ∧ swiRegistered s.cfg ((0x800001 : BitVec 24).toNat % 2 ^ 23) = true ∧
      ∃ x ∈ (nextCallback 1 s).1.writes, x.1 < s.cfg.memLimit ∧ inPrefetchWindow s.pc x.1 = true) := by decide

theorem witness_ResetLine : 40 ≤ at8000.cfg.maxInstLen ∧ ∃ x rest, ({ at8000 with inputs := [{ nIRQ := true, nFIQ := true, reset := true }] } :
    State).inputs = x :: rest ∧ x.reset = true := ⟨by decide, _, _, rfl, rfl⟩

theorem witness_BankedRegisters :
    (7 : Reg).val < 8 ∧ 8 ≤ (8 : Reg).val ∧ (12 : Reg).val < 13 ∧ (13 : Reg).val < 15 ∧ (14 : Reg).val < 15 ∧
    Bank.usr ≠ .fiq ∧ phys .fiq 14 = phys .fiq 14 := by decide

theorem witness_UserModeIsLeftByException :
    let s := withCpsr 0x10 at8000;
    s.cpsr.mode = .usr ∧ (∃ t, exec (.swi .al 0) s = .next t) ∧ ∃ t, exec (.mov .al false 0 0 (.imm 0 5)) s = .next t :=
  ⟨by decide, exists_of_isNext (by decide), exists_of_isNext (by decide)⟩

theorem witness_FailedConditionOnlyAdvances :
    let i : Instr := .swi .eq 0;
    unpredictable i = none ∧ Instr.cond i = some .eq ∧ condPassed .eq at8000.cpsr = false := by decide

theorem witness_RefusedWordsAreRefused :
    unpredictable (.mov .al false 3 0 (.immShift 1 .lsl 0)) = some .sbzNotZero ∧
    unpredictable (.ldmia .eq false false 0 0) = some .emptyList := by decide

/-- Where the clauses meet: amounts 0, 1, 32 and 33, the last bits, an immediate amount that is not 0. -/
theorem witness_ShifterAtEveryAmount :
    (∀ n ∈ [1, 32], 1 ≤ n ∧ n ≤ 32) ∧ ¬ 1 ≤ 0 ∧ 33 ≤ 33 ∧ ¬ 33 ≤ 32 ∧ 31 < 32 ∧ 30 < 31 ∧ (1 : BitVec 5) ≠ 0 := by decide

theorem witness_TransferAddresses :
    (∃ x, Offset.imm 0xFFF = .imm x) ∧ (∃ rm ty k, Offset.reg 15 .ror 0 = .reg rm ty k) ∧
    (∃ x, HalfOffset.imm 0xFF = .imm x) ∧ ∃ sbz rm, HalfOffset.reg 0 14 = .reg sbz rm :=
  ⟨⟨_, rfl⟩, ⟨_, _, _, rfl⟩, ⟨_, rfl⟩, _, _, rfl⟩

theorem witness_ArithmeticResults :
    condPassed .al at8000.cpsr = true ∧ restrictDp 15 14 (.immShift 15 .lsl 0) = none ∧
    restrictDp 14 0 (.regShift 1 .ror 2) = none ∧ (14 : Reg) ≠ 15 := by decide

theorem witness_LogicalResults :
    condPassed .al at8000.cpsr = true ∧ (0 : Reg) ≠ 15 ∧ restrictDp 15 0 (.imm 15 255) = none ∧
    restrictDpSbz 0 0 (.regShift 1 .asr 2) = none := by decide

theorem witness_CompareResults :
    condPassed .al at8000.cpsr = true ∧ restrictDpSbz 0 15 (.immShift 15 .ror 0) = none := by decide

/-- The three clauses: a result that is not a multiple of 4, a plain write, a restore that completes and one that stops. -/
theorem witness_DataProcessingWritesPc :
    let s := withRegs [(0, 0x8003), (1, 0xFFFFFFFC)] (withSpsr 0x10 at8000);
    condPassed .al s.cpsr = true ∧ isRegShift (.immShift 0 .lsl 0) = false ∧
    (operand2 (.immShift 0 .lsl 0) s).1.toNat % 4 ≠ 0 ∧ (operand2 (.immShift 1 .lsl 0) s).1.toNat % 4 = 0 ∧
    (∃ u, restoreCpsr s = .next u) ∧ restoreCpsr (withCpsr 0x10 s) = .fault .noSpsr :=
  ⟨by decide, by decide, by decide, by decide, exists_of_isNext (by decide), fault_of_isFault (by decide)⟩

theorem witness_BranchTargets : condPassed .al at8000.cpsr = true := by decide

theorem witness_MultiplyResults :
    condPassed .al at8000.cpsr = true ∧ restrictMul 0 0 1 2 = none ∧ restrictMul 14 0 14 0 = none ∧
    restrictMla 0 0 0 1 = none := by decide

theorem witness_LongMultiplyResults :
    condPassed .al at8000.cpsr = true ∧ restrictLongMul 1 0 0 2 = none ∧ restrictLongMul 14 13 12 12 = none := by decide

/-- Each address with a form of every load or store that runs there: in memory, in its last word, in peripheral space. -/
theorem witness_LoadResults :
    condPassed .al at8000.cpsr = true ∧ Config.wf at8000.cfg ∧ cacheCoherent at8000.cfg at8000.mem at8000.cache ∧
    (0 : Reg) ≠ 15 ∧
    ∀ a ∈ [(0x100 : Nat), 0x7FFFFFFE, 0x80000000, 0xFFFFFFFE],
      ∀ f ∈ loadForms .al .offset true true false 1 0 (.imm 0) (.imm 0) (withRegs [(1, BitVec.ofNat 32 a)] at8000),
        f.refusal = none ∧ busFault at8000.cfg f.width f.address.addr = none := by decide

theorem witness_LoadIntoPc :
    condPassed .al at8000.cpsr = true ∧ Config.wf at8000.cfg ∧ cacheCoherent at8000.cfg at8000.mem at8000.cache ∧
    unpredictable (.ldr .al .offset true 1 15 (.imm 0)) = none ∧ unpredictable (.ldrt .al true 1 15 (.imm 0)) = none ∧
    (let a := singleAddress .post true 1 (.imm 0) (withRegs [(1, 0x103)] at8000);
      busFault at8000.cfg .word a.addr = none ∧ a.addr.toNat % 4 ≠ 0) ∧
    (let a := singleAddress .offset true 1 (.imm 0) (withRegs [(1, 0x7FFFFFFC)] at8000);
      busFault at8000.cfg .word a.addr = none ∧ a.addr.toNat % 4 = 0 ∧ a.addr.msb = false) ∧
    (let a := singleAddress .offset true 1 (.imm 0) (withRegs [(1, 0x80000000)] at8000);
      busFault at8000.cfg .word a.addr = none ∧ a.addr.toNat % 4 = 0 ∧ a.addr.msb = true) := by decide

theorem witness_StoreResults :
    condPassed .al at8000.cpsr = true ∧ Memory.wf at8000.mem ∧
    ∀ a ∈ [(0x100 : Nat), 0x8002, 0x800C, 0x7FFFFFFE, 0x80000000, 0xFFFFFFFE],
      ∀ f ∈ storeForms .al .offset true true false 1 0 (.imm 0) (.imm 0) (withRegs [(1, BitVec.ofNat 32 a)] at8000),
        f.refusal = none ∧ storeFault at8000.cfg at8000.pc f.width f.address.addr = none := by decide

/-- The numbers, where the clauses meet: `MEM_LIMIT - 1` and `MEM_LIMIT`, the first and the last address of a window and the
one after, the bytes `cur + 3`, `cur + 4`, `cur + 11` and `cur + 12`, an odd and an even half-word. -/
theorem witness_TransfersStopOutsideMemory_numbers :
    ((0x101 : Word).toNat % 2 = 1 ∧ (0x102 : Word).toNat % 2 ≠ 1) ∧
    ((0xFFFF : Word).toNat < 2 ^ 31 ∧ (0xFFFF : Word).toNat < small.cfg.memLimit) ∧
    ((0x10000 : Word).toNat < 2 ^ 31 ∧ small.cfg.memLimit ≤ (0x10000 : Word).toNat) ∧
    (2 ^ 31 ≤ (0x80000000 : Word).toNat ∧ 2 ^ 31 ≤ (0x8000000F : Word).toNat ∧ ∃ p ∈ small.cfg.periphMap,
      p.base ≤ (0x80000000 : Word).toNat ∧ (0x80000000 : Word).toNat < p.base + p.size ∧
      p.base ≤ (0x8000000F : Word).toNat ∧ (0x8000000F : Word).toNat < p.base + p.size) ∧
    (2 ^ 31 ≤ (0x80000010 : Word).toNat ∧
      ∀ p ∈ small.cfg.periphMap, (0x80000010 : Word).toNat < p.base ∨ p.base + p.size ≤ (0x80000010 : Word).toNat) ∧
    ((0x8004 + 2 ^ 32 - ((0x8000 : Word) + 4).toNat) % 2 ^ 32 < 8 ∧
      (0x800B + 2 ^ 32 - ((0x8000 : Word) + 4).toNat) % 2 ^ 32 < 8) ∧
    (¬ (0x8003 + 2 ^ 32 - ((0x8000 : Word) + 4).toNat) % 2 ^ 32 < 8 ∧
      ¬ (0x800C + 2 ^ 32 - ((0x8000 : Word) + 4).toNat) % 2 ^ 32 < 8) ∧
    (busFault small.cfg .word 0x80000010 = some .outsidePeripherals ∧ busFault small.cfg .byte 0x8004 = none ∧
      busFault small.cfg .byte 0x800C = none) := by decide

/-- The same against the operations: what they answer at these addresses. -/
theorem test_stops_at_the_edges :
    busFault small.cfg .byte 0xFFFF = none ∧ busFault small.cfg .word 0xFFFF = none ∧
    busFault small.cfg .word 0x10000 = some .outsideMemory ∧ busFault small.cfg .half 0x101 = some .oddHalfword ∧
    busFault small.cfg .byte 0x80000000 = none ∧ busFault small.cfg .word 0x8000000F = none ∧
    busFault small.cfg .byte 0x80000010 = some .outsidePeripherals ∧
    storeFault small.cfg 0x8000 .byte 0x8003 = none ∧ storeFault small.cfg 0x8000 .byte 0x8004 = some .prefetchWindow ∧
    storeFault small.cfg 0x8000 .byte 0x800B = some .prefetchWindow ∧ storeFault small.cfg 0x8000 .byte 0x800C = none ∧
    storeFault small.cfg 0x8000 .word 0x8003 = none := by decide

/-- The stops, each at the first address that stops so. -/
theorem witness_TransfersStopOutsideMemory :
    condPassed .al small.cpsr = true ∧
    (∀ f ∈ loadForms .al .offset true true false 1 0 (.imm 0) (.imm 0) (withRegs [(1, 0x10000)] small),
      f.refusal = none ∧ busFault small.cfg f.width f.address.addr = some .outsideMemory) ∧
    (∀ f ∈ loadForms .al .offset true true false 1 0 (.imm 0) (.imm 0) (withRegs [(1, 0x80000010)] small),
      f.refusal = none ∧ busFault small.cfg f.width f.address.addr = some .outsidePeripherals) ∧
    restrictHalf true false 1 0 (.imm 0) = none ∧ busFault small.cfg .half 0x101 = some .oddHalfword ∧
    (∀ f ∈ storeForms .al .offset true true false 1 0 (.imm 0) (.imm 0) (withRegs [(1, 0x8004)] small),
      f.refusal = none ∧ storeFault small.cfg small.pc f.width f.address.addr = some .prefetchWindow) ∧
    (let s := withRegs [(0, 0x800B)] small;
      restrictSwap 0 1 2 = none ∧ storeFault s.cfg s.pc .word (readReg s 0) = some .prefetchWindow ∧
      storeFault s.cfg s.pc .byte (readReg s 0) = some .prefetchWindow) ∧
    (let s := withRegs [(0, 0xFFFC)] small;
      restrictLdm false false 0 6 = none ∧ 1 < popcount 6 ∧
      (∀ j, j < 1 → busFault s.cfg .word (blockWord .ia 0 6 s j) = none) ∧
      busFault s.cfg .word (blockWord .ia 0 6 s 1) = some .outsideMemory) ∧
    (let s := withRegs [(0, 0x8000)] small;
      restrictStm false false 0 6 = none ∧ 1 < popcount 6 ∧
      (∀ j, j < 1 → storeFault s.cfg s.pc .word (blockWord .ia 0 6 s j) = none) ∧
      storeFault s.cfg s.pc .word (blockWord .ia 0 6 s 1) = some .prefetchWindow) := by decide

/-- An LDC of two words from 0xFFF8, or an STC of two words to it. -/
def atTheEdge (i : Instr) : State := accepted 1 (encode i) (withCp 1 (acceptance [7, 8]) (withRegs [(0, 0xFFF8)] small))

/-- The last word of memory served, the next one not, the transfer going on past its first word (LDC, STC) or stopping at
once. -/
theorem witness_TransfersStopOutsideMemory_coprocessor :
    (∀ i ∈ [Instr.ldc .al true true false false 0 0 1 1, Instr.stc .al true true false false 0 0 1 1],
      let s := withCp 1 (acceptance [7, 8]) (withRegs [(0, 0xFFF8)] small);
      let word (k : Nat) : Word := cpStart true true 0 1 s + BitVec.ofNat 32 (4 * k);
      restrictCpTransfer true false 0 = none ∧ (ask 1 (encode i) s).1 = .ack ∧
      (busFault s.cfg .word (word 0) = none ∧ busFault s.cfg .word (word 1) = some .outsideMemory) ∧
      (storeFault s.cfg s.pc .word (word 0) = none ∧ storeFault s.cfg s.pc .word (word 1) = some .outsideMemory)) ∧
    (∀ vs : List Word, vs.length = 1 → goesOn 1 (vs.map some) (atTheEdge (.ldc .al true true false false 0 0 1 1))) ∧
    goesOn 1 (List.replicate 1 none) (atTheEdge (.stc .al true true false false 0 0 1 1)) := by
  refine ⟨by decide, fun vs h => ?_, by decide⟩
  obtain ⟨v, rfl⟩ := List.length_eq_one_iff.mp h
  refine ⟨.inr (Nat.le_add_left 1 1), fun x hx => ?_⟩
  simp only [List.map_cons, List.map_nil, transferLines, List.mem_singleton] at hx
  subst hx
  decide

theorem witness_SwapResults :
    condPassed .al at8000.cpsr = true ∧ restrictSwap 2 0 0 = none ∧ Config.wf at8000.cfg ∧
    cacheCoherent at8000.cfg at8000.mem at8000.cache ∧ Memory.wf at8000.mem ∧
    (∀ a ∈ [(0x105 : Nat), 0x7FFFFFFF, 0x80000000], storeFault at8000.cfg at8000.pc .word (BitVec.ofNat 32 a) = none ∧
      storeFault at8000.cfg at8000.pc .byte (BitVec.ofNat 32 a) = none ∧
      readReg (withRegs [(2, BitVec.ofNat 32 a)] at8000) 2 = BitVec.ofNat 32 a) := by decide

/-- Both banks, in memory, in its last words, and across into peripheral space. -/
theorem witness_LoadMultipleResults :
    condPassed .al withTable.cpsr = true ∧ restrictLdm true false 0 0x7FFF = none ∧ restrictLdm false true 0 0x7FFE = none ∧
    (0x7FFF : BitVec 16).getLsbD 15 = false ∧ Config.wf withTable.cfg ∧
    cacheCoherent withTable.cfg withTable.mem withTable.cache ∧
    ∀ a ∈ [(0x1000 : Nat), 0x7FFFFFFC, 0x80000100], ∀ f ∈ ldmForms .al true false 0 0x7FFF, ∀ k, k < popcount 0x7FFF →
      busFault withTable.cfg .word (blockWord f.2 0 0x7FFF (withRegs [(0, BitVec.ofNat 32 a)] withTable) k) = none := by decide

theorem witness_LoadMultipleIntoPc :
    let s := withSpsr 0x10 withTable;
    condPassed .al s.cpsr = true ∧ restrictLdm true true 0 0xFFFE = none ∧ (0xFFFE : BitVec 16).getLsbD 15 = true ∧
    Config.wf s.cfg ∧ cacheCoherent s.cfg s.mem s.cache ∧
    (∀ f ∈ ldmForms .al true true 0 0xFFFE, ∀ k, k < popcount 0xFFFE →
      busFault s.cfg .word (blockWord f.2 0 0xFFFE s k) = none) ∧
    (∃ u, restoreCpsr s = .next u) ∧ restoreCpsr (withCpsr 0x1F s) = .fault .noSpsr :=
  ⟨by decide, by decide, by decide, by decide, by decide, by decide, exists_of_isNext (by decide),
    fault_of_isFault (by decide)⟩

theorem witness_StoreMultipleResults :
    condPassed .al withTable.cpsr = true ∧ restrictStm false true 0 0xFFFF = none ∧ restrictStm true false 0 0xFFFF = none ∧
    Memory.wf withTable.mem ∧
    ∀ a ∈ [(0x1000 : Nat), 0x7FFFFFFC, 0x80000100], ∀ f ∈ stmForms .al false true 0 0xFFFF, ∀ k, k < popcount 0xFFFF →
      storeFault withTable.cfg withTable.pc .word (blockWord f.2 0 0xFFFF (withRegs [(0, BitVec.ofNat 32 a)] withTable) k) = none := by
  decide

theorem witness_ReadStatusRegisters :
    condPassed .al at8000.cpsr = true ∧ (14 : Reg) ≠ 15 ∧ readSpsr at8000 = some 0 ∧
    (withCpsr 0x10 at8000).cpsr.mode = .usr := by decide

/-- The four clauses: no control byte or User mode, a T bit, an invalid mode, a mode. -/
theorem witness_WriteCpsr :
    condPassed .al at8000.cpsr = true ∧ (0 : Reg) ≠ 15 ∧
    ((0b1110 : BitVec 4).getLsbD 0 && decide (at8000.cpsr.mode ≠ .usr)) = false ∧
    ((0b1111 : BitVec 4).getLsbD 0 && decide ((withCpsr 0x10 at8000).cpsr.mode ≠ .usr)) = false ∧
    ((0b0001 : BitVec 4).getLsbD 0 && decide (at8000.cpsr.mode ≠ .usr)) = true ∧
    (let v := readReg (withRegs [(0, 0x30)] at8000) 0;
      v.getLsbD 5 = true) ∧
    (let v := readReg (withRegs [(0, 0xD5)] at8000) 0;
      v.getLsbD 5 = false ∧ modeOfCode (v.extractLsb' 0 5) = none) ∧
    (let v := readReg (withRegs [(0, 0xD2)] at8000) 0;
      v.getLsbD 5 = false ∧ modeOfCode (v.extractLsb' 0 5) = some .irq) := by decide

theorem witness_WriteSpsr :
    condPassed .al at8000.cpsr = true ∧ (0 : Reg) ≠ 15 ∧ readSpsr (withSpsr 0xFFFFFFFF at8000) = some 0xFFFFFFFF ∧
    (withCpsr 0x1F at8000).cpsr.mode = .sys := by decide

theorem witness_CoprocessorAbortTraps :
    condPassed .al at8000.cpsr = true ∧ at8000.cfg.cpSlots.contains 1 = false ∧
    (let s := withCp 15 [{ silence with abort := true }] at8000;
      s.cfg.cpSlots.contains 15 = true ∧
      ∀ f ∈ cpForms .al 0 0 0 0 0 0 14 0 15 true true false true 0,
        f.2 = none ∧ (ask 15 (encode f.1) s).1 = .abort) := by decide

/-- Silence and `busy` are waits. -/
theorem witness_CoprocessorWaitHolds :
    ∀ x ∈ [silence, { silence with busy := true }],
      let s := withCp 15 [x] at8000;
      condPassed .al s.cpsr = true ∧
      ∀ f ∈ cpForms .al 0 0 0 0 0 0 0 1 15 false true false true 0,
        f.2 = none ∧ (ask 15 (encode f.1) s).1 = .wait := by decide

/-- Accepted instructions; empty, given and other slots. -/
theorem witness_CoprocessorRegisterTransfers :
    (let s := withCp 15 (acceptance [0xA0000123]) at8000;
      condPassed .al s.cpsr = true ∧
      (∀ i ∈ [Instr.cdp .al 0 0 0 15 0 0, Instr.mcr .al 0 0 14 15 0 0, Instr.mrc .al 0 0 15 15 0 0,
          Instr.mrc .al 0 0 14 15 0 0], (ask 15 (encode i) s).1 = .ack ∧ settled 15 1 (accepted 15 (encode i) s)) ∧
      (14 : Reg) ≠ 15 ∧ s.cfg.cpSlots.contains 0 = false ∧ (0 : Fin 16) ≠ 15) ∧
    (let s := withGiven 15 at8000;
      Config.wf s.cfg ∧ s.cfg.cpSlots.contains 15 = true ∧ s.cfg.cpPlugIns.contains 15 = true) := by decide

/-- A system cycle with a request driven to a given plug-in, and one with none. -/
theorem witness_CoprocessorRegisterTransfers_cycle :
    (let s := driveRequest 0xEE010F10 (withGiven 15 at8000);
      ∃ x, busCycle (flushIfRequested (sampleInput s).2) = .next x ∧ x.cp.request = true ∧ x.cp.taken ≠ .ack ∧
        cpAt x.cp.instr = 15 ∧
        x.cfg.cpSlots.contains 15 = true ∧ x.cfg.cpPlugIns.contains 15 = true) ∧
    (∃ x, busCycle (flushIfRequested (sampleInput (withGiven 15 at8000)).2) = .next x ∧ x.cp.request = false ∧
      cpAt x.cp.instr ≠ 15 ∧ x.cfg.cpSlots.contains 0 = false) :=
  ⟨⟨_, rfl, by decide⟩, _, rfl, by decide⟩

/-- The whole sixteen words in memory, in its last words, in peripheral space; and two words, the last of memory, where the
coprocessor takes two. -/
theorem witness_LoadCoprocessor :
    (condPassed .al at8000.cpsr = true ∧ restrictCpTransfer true false 15 = none ∧ restrictCpTransfer false true 0 = none ∧
      cacheCoherent at8000.cfg at8000.mem at8000.cache ∧
      ∀ a ∈ [(0x1003 : Nat), 0x7FFFFFC0, 0x80000000],
        let s := withCp 1 (acceptance []) (withRegs [(0, BitVec.ofNat 32 a)] at8000);
        Config.wf s.cfg ∧ (ask 1 (encode (.ldc .al false true false true 0 0 1 4)) s).1 = .ack ∧
        ∀ k, k < 16 → busFault s.cfg .word (cpStart false true 0 4 s + BitVec.ofNat 32 (4 * k)) = none) ∧
    (∀ (a : State) (vs : List Word), vs.length = 16 → endsWithin 1 (vs.map some) a) ∧
    (let i := Instr.ldc .al true true false false 0 0 1 0;
      let s := withCp 1 (acceptance [7, 8]) (withRegs [(0, 0xFFF8)] small);
      (ask 1 (encode i) s).1 = .ack ∧ Config.wf s.cfg ∧
      ∀ k, k < 2 → busFault s.cfg .word (cpStart true true 0 0 s + BitVec.ofNat 32 (4 * k)) = none) ∧
    ∀ vs : List Word, vs.length = 2 → endsWithin 1 (vs.map some) (atTheEdge (.ldc .al true true false false 0 0 1 0)) := by
  refine ⟨by decide, fun _ vs h => .inl (by simp [h]), by decide, fun vs h => .inr ?_⟩
  obtain ⟨v, v', rfl⟩ : ∃ v v', vs = [v, v'] := by
    match vs, h with
    | [v, v'], _ => exact ⟨v, v', rfl⟩
  exact ⟨.inr (Nat.le_refl 2), _, .tail _ (.head _), rfl⟩

theorem witness_StoreCoprocessor :
    condPassed .al at8000.cpsr = true ∧ restrictCpTransfer true true 0 = none ∧ Memory.wf at8000.mem ∧
    (∀ a ∈ [(0x1003 : Nat), 0x7FFFFFA0, 0x80000000],
      let i := Instr.stc .al true true false true 0 0 1 4;
      let s := withCp 1 (acceptance []) (withRegs [(0, BitVec.ofNat 32 a)] at8000);
      (ask 1 (encode i) s).1 = .ack ∧ endsWithin 1 (List.replicate 16 none) (accepted 1 (encode i) s) ∧
      ∀ k, k < 16 → storeFault s.cfg s.pc .word (cpStart true true 0 4 s + BitVec.ofNat 32 (4 * k)) = none) ∧
    (let i := Instr.stc .al true true false false 0 0 1 0;
      let s := withCp 1 (acceptance [7, 8]) (withRegs [(0, 0xFFF8)] small);
      (ask 1 (encode i) s).1 = .ack ∧ endsWithin 1 (List.replicate 2 none) (atTheEdge i) ∧ settled 1 2 (atTheEdge i) ∧
      ∀ k, k < 2 → storeFault s.cfg s.pc .word (cpStart true true 0 0 s + BitVec.ofNat 32 (4 * k)) = none) := by decide

/-- The three kinds of cache, lines of one word and of four. -/
theorem witness_InstalledLineHits :
    ∀ kind ∈ [CacheKind.direct, .associative, .setAssociative], ∀ n ∈ [1, 4],
      let cfg : Config := { Config.standard with cacheKind := kind, cacheWords := 16, lineWords := n, ways := 2 };
      Config.wf cfg ∧ cacheForm cfg (cacheWriteLine cfg cacheReset 0x1000 (List.replicate n 7) 0).1 ∧
      (List.replicate n (9 : Word)).length = cfg.lineWords := by decide

theorem witness_MissCost :
    1 ≤ at8000.cfg.busSpeed ∧ 1 ≤ at8000.cfg.lineWords ∧ missCycles at8000.cfg ≤ 5 := by decide

/-- A boundary of the cycle level with a word given next. -/
def readyCycles (w : Nat) : State :=
  match toCycles (ready w) with
  | .next s => s
  | .fault _ => at8000
  | .refused _ => at8000

/-- A form that writes a register and a compare. -/
theorem witness_OneCycleDataProcessing :
    ∀ x ∈ [((0xE0910002 : Nat), Instr.add .al true 1 0 (.immShift 2 .lsl 0)), (0xE3510001, .cmp .al 1 0 (.imm 0 1))],
      let s := readyCycles x.1;
      (quietBoundary s ∧ pipeAddresses s) ∧ Config.wf s.cfg ∧
      (cacheCoherent s.cfg s.mem s.cache ∧ cacheRead s.cfg s.cache (alignWord s.pipe.fetchAddr).toNat = .hit 0) ∧
      condPassed .al s.cpsr = true ∧ isRegShift (.immShift 2 .lsl 0) = false ∧ isRegShift (.imm 0 1) = false ∧
      s.pipe.next.ok = true ∧ inMemory s.cfg s.pipe.fetchAddr ∧ unpredictable x.2 = none ∧
      decode s.pipe.next.word = x.2 := by
  intro x hx
  simp only [List.mem_cons, List.not_mem_nil, or_false] at hx
  obtain rfl | rfl := hx
  · exact ⟨⟨by decide, by decide⟩, by decide, ⟨by decide, by decide⟩, by decide, by decide, by decide, by decide,
      by decide, by decide, by decide⟩
  · exact ⟨⟨by decide, by decide⟩, by decide, ⟨by decide, by decide⟩, by decide, by decide, by decide, by decide,
      by decide, by decide, by decide⟩

theorem witness_StepKeepsThePipe :
    let s := ready 0xEA000002;
    pcAligned s ∧ pipeAddresses s ∧ ∃ t, step s = .next t := ⟨by decide, by decide, exists_of_isNext (by decide)⟩

theorem witness_StepKeepsMemoryForm :
    let s := withRegs [(0, 7), (1, 0x1000)] (ready 0xE5810000);
    Config.wf s.cfg ∧ memoryForm s ∧ ∃ t, step s = .next t := ⟨by decide, by decide, exists_of_isNext (by decide)⟩

theorem witness_StepKeepsInvariant :
    let s := withRegs [(0, 7), (1, 0x1000)] (ready 0xE5810000);
    Inv s ∧ ∃ t, step s = .next t :=
  ⟨⟨by decide, by decide, by decide, by decide, by decide, by decide, by decide, by decide, by decide⟩,
    exists_of_isNext (by decide)⟩

end Sys2Proof.Tests
end

section
/-! SUPPORT. An instruction's meaning as its refusal, its condition and its effect, in that order. -/

namespace Sys2Proof.Machine

/-- Every conditional instruction is refused for the reason of its word, else tests its condition, else has an effect
(41_alu_shifter.md R262): its meaning is `conditional` of just these. -/
theorem exec_eq_conditional {i : Instr} {c : Cond} (h : Instr.cond i = some c) :
    ∃ effect, ∀ s, exec i s = conditional c (unpredictable i) s effect := by
  cases i <;> cases h <;> exact ⟨_, fun _ => rfl⟩

/-- A word refused has a condition: the undefined words, which have none, are never refused. -/
theorem cond_isSome_of_refused {i : Instr} {why : Unpredictable} (h : unpredictable i = some why) :
    ∃ c, Instr.cond i = some c := by
  cases i
  case undefined => cases h
  all_goals exact ⟨_, rfl⟩

theorem conditional_passed {c : Cond} {why : Option Unpredictable} {s : State} {effect : State → Result}
    (hw : why = none) (hp : condPassed c s.cpsr = true) : conditional c why s effect = effect s := by
  simp [conditional, hw, hp]

/-- Settles O22: the refusal comes before the condition, and the state is not looked at. -/
theorem refusedWordsAreRefused : Obligations.RefusedWordsAreRefused := by
  intro i why s h
  obtain ⟨c, hc⟩ := cond_isSome_of_refused h
  obtain ⟨effect, he⟩ := exec_eq_conditional hc
  rw [he, h, conditional]

end Sys2Proof.Machine
end

section
/-! SUPPORT. No recipe is longer than 20 control words (40_sequencer.md R245), so that a next queue can always be filled
beside a current one. -/

namespace Sys2Proof.Machine

@[simp] theorem withCond_length (c : Cond) (ws : List ControlWord) : (withCond c ws).length = ws.length :=
  List.length_map ..

theorem listed_length_le (list : BitVec 16) : (listed list).length ≤ 16 :=
  Nat.le_trans (List.length_filter_le ..) (Nat.le_of_eq List.length_finRange)

theorem ldmStages_length_le (ovr : BankOvr) (sf : Bool) (prev : Reg) (rest : List Reg) :
    (ldmStages ovr sf prev rest).length ≤ rest.length + 3 := by
  induction rest generalizing prev with
  | nil => unfold ldmStages; split <;> simp [refillStages]
  | cons i rest ih => simpa [ldmStages, Nat.add_right_comm] using ih i

theorem ldmRecipe_length_le (m : BlockMode) (sf w : Bool) (rn : Reg) (list : BitVec 16) :
    (ldmRecipe m sf w rn list).length ≤ 20 := by
  have hl := listed_length_le list
  cases h : listed list with
  | nil => simp [ldmRecipe, h]
  | cons i rest =>
    have hs := ldmStages_length_le (if sf && !list.getLsbD 15 then .userWrite else .none) sf i rest
    simp only [ldmRecipe, h, List.length_cons] at hl ⊢
    omega

theorem stmRecipe_length_le (m : BlockMode) (sf w : Bool) (rn : Reg) (list : BitVec 16) :
    (stmRecipe m sf w rn list).length ≤ 20 := by
  have hl := listed_length_le list
  cases h : listed list with
  | nil => simp [stmRecipe, h]
  | cons i rest =>
    simp only [stmRecipe, h, List.length_cons, List.length_map] at hl ⊢
    omega

theorem dpRecipe_length_le (op : AluOp) (sf : Bool) (a : ASel) (rd : Reg) (op2 : Operand2) :
    (dpRecipe op sf a rd op2).length ≤ 20 := by
  by_cases hrd : rd = 15 <;> cases hop : isRegShift op2 <;> simp [dpRecipe, refillStages, hrd, hop]

theorem compareRecipe_length_le (op : AluOp) (rn : Reg) (op2 : Operand2) : (compareRecipe op rn op2).length ≤ 20 := by
  cases hop : isRegShift op2 <;> simp [compareRecipe, hop]

theorem loadRecipe_length_le (w : Width) (x : Extend) (p wb : Bool) (rn rd : Reg) (sum : ControlWord) :
    (loadRecipe w x p wb rn rd sum).length ≤ 20 := by
  by_cases hrd : rd = 15 <;> simp [loadRecipe, refillStages, hrd]

theorem recipe_length_le (cfg : Config) (i : Instr) : (recipe cfg i).length ≤ 20 := by
  cases i
  case swi c comment => simp only [recipe, withCond_length]; split <;> simp [entryRecipe, refillStages]
  all_goals
    simp [recipe, singleLoad, halfLoad, dpRecipe_length_le, compareRecipe_length_le, loadRecipe_length_le,
      ldmRecipe_length_le, stmRecipe_length_le, refillStages, entryRecipe, mulRecipe, longMulRecipe, singleStore,
      storeRecipe, swapRecipe, msrRecipe, cpTransferRecipe]

end Sys2Proof.Machine
end

section
/-! SUPPORT. A fetch or request the cache serves at once: what both levels do then (20_memory.md R142, R158). -/

namespace Sys2Proof.Machine

theorem deliver_of_eq {a w : Word} {s : State} (h : w = wordAt s.mem a.toNat) : deliver a w s = (w, s) := by
  simp [deliver, h]

theorem inMemory_served {cfg : Config} {a : Word} (h : inMemory cfg a) :
    (a.msb || decide (cfg.memLimit ≤ a.toNat)) = false := by
  obtain ⟨hlow, hlim⟩ := h
  have hmsb : a.msb = false := BitVec.msb_eq_false_iff_two_mul_lt.mpr (by omega)
  simp [hmsb, hlim]

section
variable {s : State} (hw : Config.wf s.cfg) (hc : cacheCoherent s.cfg s.mem s.cache)
include hw hc

/-- A resident word of a coherent cache is the word of memory at the aligned address. -/
theorem resident_word {a x : Word} (h : cacheRead s.cfg s.cache (alignWord a).toNat = .hit x) :
    x = wordAt s.mem (alignWord a).toNat :=
  cacheRead_coherent hw hc (by rw [alignWord_toNat]; omega) h

/-- A fetch that hits brings the resident word and changes nothing. -/
theorem fetch_hit {a x : Word} (hm : inMemory s.cfg a) (h : cacheRead s.cfg s.cache (alignWord a).toNat = .hit x) :
    fetch a s = ({ word := x, ok := true }, s) := by
  simp [fetch, inMemory_served hm, cachedWord, h, ← resident_word hw hc h]

/-- A cycle whose fetch hits cycles the core with the resident word (R142). -/
theorem normalCycle_fetch_hit {front : State} {a x : Word} (hr : requestOf front = .fetch a) (hmem : front.mem = s.mem)
    (hm : inMemory s.cfg a) (h : cacheRead s.cfg s.cache (alignWord a).toNat = .hit x) :
    normalCycle s front = cycleCore { word := x, ok := true } front := by
  have hd : deliver (alignWord a) x front = (x, front) := deliver_of_eq (by rw [hmem]; exact resident_word hw hc h)
  simp [normalCycle, hr, inMemory_served hm, h, hd]
end

end Sys2Proof.Machine
end

section
/-! SUPPORT. A data-processing operation of one control word: the word, and the same operation on the registers of the
instruction level (40_sequencer.md R235, R241). -/

namespace Sys2Proof.Machine

/-- A register read of a stage is the instruction's own, where the current queue is that of the instruction at `pc`
(R239). -/
theorem stageRead_none {s : State} (h : s.seq.cur = s.pc) (i : Reg) : stageRead s .none i = readReg s i := by
  rw [stageRead, h]
  rfl

theorem stageWrite_none (i : Reg) (v : Word) (s : State) : stageWrite .none i v s = writeReg i v s := rfl

theorem aluFlags_mode (op : AluOp) (a b : Word) (c : Bool) (p : Psr) : (aluFlags op a b c p).mode = p.mode := by
  unfold aluFlags
  split <;> rfl

theorem setAluFlags_writeReg (op : AluOp) (sf : Bool) (a : Word) (b : Word × Bool) (i : Reg) (v : Word) (s : State) :
    setAluFlags op sf a b (writeReg i v s) = writeReg i v (setAluFlags op sf a b s) := by
  cases sf
  · rfl
  · simp only [setAluFlags, if_true, writeReg, writeBank_cpsr, aluFlags_mode]
    unfold writeBank
    split <;> rfl

/-- A state with another pipe, interrupt latch, sequencer and bus sequencer: what a cycle's front end may change. -/
def withControl (p : Pipe) (l : IrqLatch) (q : Sequencer) (b : BusSeq) (s : State) : State :=
  { s with pipe := p, irq := l, seq := q, bus := b }

section
variable (p : Pipe) (l : IrqLatch) (q : Sequencer) (b : BusSeq) (s : State)

@[simp] theorem withControl_cpsr : (withControl p l q b s).cpsr = s.cpsr := rfl

@[simp] theorem operand2_withControl (op2 : Operand2) : operand2 op2 (withControl p l q b s) = operand2 op2 s := by
  cases op2 <;> rfl

@[simp] theorem writeReg_withControl (i : Reg) (v : Word) :
    writeReg i v (withControl p l q b s) = withControl p l q b (writeReg i v s) := by
  unfold writeReg writeBank
  dsimp only [withControl]
  split <;> rfl

@[simp] theorem setAluFlags_withControl (op : AluOp) (sf : Bool) (x : Word) (y : Word × Bool) :
    setAluFlags op sf x y (withControl p l q b s) = withControl p l q b (setAluFlags op sf x y s) := by
  cases sf <;> rfl
end

/-- An immediate operand is its byte rotated right by the shifter, whose carry-out is then bit 31 of the result (R269, R272,
30_encoding.md R188). -/
theorem shift_rotatedImm (rot : BitVec 4) (imm8 : Byte) (c : Bool) :
    shift (imm8.setWidth 32) .ror (2 * rot.toNat) c =
      (rotatedImm rot imm8, if rot = 0 then c else (rotatedImm rot imm8).getLsbD 31) := by
  rcases Decidable.em (rot = 0) with rfl | hr
  · simp [shift, shiftRor, rotatedImm, BitVec.rotateRight, BitVec.rotateRightAux]
  · have hpos : rot.toNat ≠ 0 := fun h => hr (BitVec.eq_of_toNat_eq h)
    have hlt := rot.isLt
    have hmod : 2 * rot.toNat % 32 = 2 * rot.toNat := Nat.mod_eq_of_lt (by omega)
    have hnz : 2 * rot.toNat ≠ 0 := by omega
    have htop : ¬ 31 < 32 - 2 * rot.toNat := by omega
    have hbit : 31 - (32 - 2 * rot.toNat) = 2 * rot.toNat - 1 := by omega
    rw [if_neg hr, shift, shiftRor, rotatedImm, hmod, if_neg hnz, if_neg hnz, BitVec.getLsbD_rotateRight, hmod,
      decide_eq_false htop, cond_false, hbit, decide_eq_true (by decide : 31 < 32), Bool.true_and]

theorem andThen_next_right {α : Type} (r : Host.Outcome α Fault Refusal) : (andThen r fun a => .next a) = r := by
  cases r <;> rfl

/-- A data-processing operation: its ALU function, whether it writes the flags, the register of its first operand (none for
MOV and MVN), its second operand, the register it writes (none for a compare). -/
structure DpOperation where
  op  : AluOp
  sf  : Bool
  rn  : Option Reg
  op2 : Operand2
  rd  : Option Reg

namespace DpOperation

variable (d : DpOperation)

/-- Its one control word, where it needs neither a second stage for a shift nor one for R15 (R241). -/
def word (c : Cond) : ControlWord :=
  { withOperand2 { aSel := d.rn.elim .none .reg, aluOp := d.op } d.op2 with
    cond := c, dest := d.rd, update := { reg := d.rd.isSome, flags := d.sf, ipipe := true }, busDrive := .fetch }

/-- The first operand. -/
def first (s : State) : Word := d.rn.elim 0 (readReg s)

/-- The ALU result. -/
def result (s : State) : Word := aluResult d.op (d.first s) (operand2 d.op2 s).1 s.cpsr.c

/-- The register written, if one is. -/
def writeResult (v : Word) (s : State) : State := d.rd.elim s (writeReg · v s)

/-- The registers and flags after it. -/
def apply (s : State) : State :=
  setAluFlags d.op d.sf (d.first s) (operand2 d.op2 s) (d.writeResult (d.result s) s)

@[simp] theorem word_dest (c : Cond) : (d.word c).dest = d.rd := rfl
@[simp] theorem word_update (c : Cond) :
    (d.word c).update = { reg := d.rd.isSome, flags := d.sf, ipipe := true } := rfl

/-- An operand form sets the B operand and its shift, and no other field of the word. -/
theorem word_fields (c : Cond) :
    (d.word c).aSel = d.rn.elim .none .reg ∧ (d.word c).aluOp = d.op ∧ (d.word c).bankOvr = .none ∧
    (d.word c).mulTag = .none ∧ (d.word c).cpTag = .none ∧ (d.word c).special = .none := by
  obtain ⟨op, sf, rn, op2, rd⟩ := d
  cases op2 <;> simp [word, withOperand2]

@[simp] theorem word_aSel (c : Cond) : (d.word c).aSel = d.rn.elim .none .reg := (d.word_fields c).1
@[simp] theorem word_aluOp (c : Cond) : (d.word c).aluOp = d.op := (d.word_fields c).2.1
@[simp] theorem word_bankOvr (c : Cond) : (d.word c).bankOvr = .none := (d.word_fields c).2.2.1
@[simp] theorem word_mulTag (c : Cond) : (d.word c).mulTag = .none := (d.word_fields c).2.2.2.1
@[simp] theorem word_cpTag (c : Cond) : (d.word c).cpTag = .none := (d.word_fields c).2.2.2.2.1
@[simp] theorem word_special (c : Cond) : (d.word c).special = .none := (d.word_fields c).2.2.2.2.2

theorem aOperand_word (c : Cond) {s : State} (h : s.seq.cur = s.pc) : aOperand (d.word c) s = d.first s := by
  rw [aOperand, word_aSel, word_bankOvr, first]
  cases d.rn with
  | none => rfl
  | some r => exact stageRead_none h r

theorem shifted_word (c : Cond) {s : State} (h : s.seq.cur = s.pc) : shifted (d.word c) s = operand2 d.op2 s := by
  obtain ⟨op, sf, rn, op2, rd⟩ := d
  cases op2 with
  | imm rot imm8 => exact shift_rotatedImm rot imm8 s.cpsr.c
  | immShift rm ty k => simp [shifted, bOperand, word, withOperand2, operand2, stageRead_none h]
  | regShift rm ty rs => simp [shifted, bOperand, word, withOperand2, operand2, stageRead_none h]

/-- The flags and the register of a stage may be written in either order: the operands are taken before both (R235). -/
theorem stageReg_setAluFlags (c : Cond) (v a : Word) (b : Word × Bool) (s : State) :
    stageReg (d.word c) v (setAluFlags d.op d.sf a b s) = setAluFlags d.op d.sf a b (d.writeResult v s) := by
  unfold writeResult stageReg
  cases h : d.rd with
  | none => simp [h]
  | some i =>
    simp only [word_dest, word_update, word_bankOvr, h, Option.isSome_some, if_true, Option.elim_some,
      setAluFlags_writeReg, stageWrite_none]

/-- The stage of the operation (R235): the operation itself, then the latches, then the `IPIPE` action. -/
theorem executeWord_word (c : Cond) (f : Fetched) {s : State} (h : s.seq.cur = s.pc) :
    executeWord (d.word c) f s =
      stageFetch (d.word c) f (stageLatches (d.word c) (d.result s) f.word (operand2 d.op2 s).2 s (d.apply s)) := by
  have hres : aluResult d.op (d.first s) (operand2 d.op2 s).1 s.cpsr.c = d.result s := rfl
  simp [executeWord, aOperand_word _ _ h, shifted_word _ _ h, mulStage, stageFlags, mulEnd, stageResult, stagePc,
    stageTransfer, stageSpecial, stageReg_setAluFlags, hres, apply, andThen_next_right]

/-- The operation writes registers and flags alone. -/
theorem apply_frame (s : State) :
    (d.apply s).cfg = s.cfg ∧ (d.apply s).pc = s.pc ∧ (d.apply s).mem = s.mem ∧ (d.apply s).cache = s.cache ∧
    (d.apply s).pipe = s.pipe ∧ (d.apply s).pool = s.pool ∧ (d.apply s).cp = s.cp := by
  unfold apply writeResult
  cases d.rd <;> simp

@[simp] theorem first_withControl (p : Pipe) (l : IrqLatch) (q : Sequencer) (b : BusSeq) (s : State) :
    d.first (withControl p l q b s) = d.first s := by
  unfold first
  cases d.rn <;> rfl

/-- The operation does not look at the pipe, the interrupt latch and the sequencers, and leaves them. -/
theorem apply_withControl (p : Pipe) (l : IrqLatch) (q : Sequencer) (b : BusSeq) (s : State) :
    d.apply (withControl p l q b s) = withControl p l q b (d.apply s) := by
  have hresult : d.result (withControl p l q b s) = d.result s := by simp [result]
  rw [apply, first_withControl, operand2_withControl, hresult, writeResult, apply, writeResult]
  cases d.rd with
  | none => exact setAluFlags_withControl ..
  | some i => simp

end DpOperation

theorem setNext_succeeds {ws : List ControlWord} {s : State} (h : ws.length ≤ s.pool.free.length) :
    ∃ t, setNext ws s = .next t := by
  simp only [setNext]
  cases hb : (releaseNext s).pool.borrow ws with
  | some r => exact ⟨_, rfl⟩
  | none =>
    have := borrow_eq_none.mp hb
    simp only [releaseNext, Pool.release, List.length_append] at this
    omega

/-- The state after an `IPIPE` action that fetched `f` (R226), with the pool and the next queue it leaves. -/
def pipeMoved (f : Fetched) (p : Pool) (q : List Nat) (s : State) : State :=
  { s with pc := s.pipe.ipAddr, pool := p, seq := { s.seq with nextQ := q },
           pipe := { valid := true, next := s.pipe.ip, ipAddr := s.pipe.fetchAddr, ip := f,
                     fetchAddr := s.pipe.fetchAddr + 4 } }

/-- With enough free control words the `IPIPE` action goes through. -/
theorem stageFetch_ipipe {w : ControlWord} (f : Fetched) {s : State} (hb : w.busDrive = .fetch)
    (hi : w.update.ipipe = true) (hfree : 20 ≤ s.pool.free.length) :
    ∃ p q, stageFetch w f s = .next (pipeMoved f p q s) := by
  obtain ⟨t, ht⟩ := setNext_succeeds (Nat.le_trans (recipe_length_le s.cfg (decode s.pipe.ip.word)) hfree)
  refine ⟨t.pool, t.seq.nextQ, ?_⟩
  rw [stageFetch, if_neg (by simp [hb]), if_neg (by simp [hi]), ht, andThen_next, setNext_frame ht]
  rfl

/-- Steps 5 to 8 of the core cycle on the one control word of an operation (R228): the operation, the latches, the `IPIPE`
action, the control word returned. -/
theorem backEnd_word {d : DpOperation} {c : Cond} (f : Fetched) {s : State} (hact : activeWord s = d.word c)
    (hcur : s.seq.cur = s.pc) (hfree : 20 ≤ s.pool.free.length) :
    ∃ p q l, backEnd f s = .next (completeStage (pipeMoved f p q { d.apply s with latches := l })) := by
  obtain ⟨-, -, -, -, -, hpool, -⟩ := d.apply_frame s
  rw [← hpool] at hfree
  have hlook : stageLook (d.word c) s = s := by simp [stageLook]
  obtain ⟨l, hlatches⟩ : ∃ l, stageLatches (d.word c) (d.result s) f.word (operand2 d.op2 s).2 s (d.apply s) =
      { d.apply s with latches := l } := ⟨_, rfl⟩
  obtain ⟨p, q, hfetch⟩ := stageFetch_ipipe (w := d.word c) f (s := { d.apply s with latches := l }) rfl rfl hfree
  refine ⟨p, q, l, ?_⟩
  simp [backEnd, hact, hlook, finishStage, d.executeWord_word c f hcur, hlatches, hfetch, stageHolds]

end Sys2Proof.Machine
end

section
/-! SUPPORT. The front end of a core cycle at an instruction boundary with nothing to take (40_sequencer.md R228, R229). -/

namespace Sys2Proof.Machine

/-- The instruction in the next queue becomes the current one (R229). -/
def takeNext (s : State) : State :=
  { s with pipe := { s.pipe with valid := false },
           seq := { curQ := s.seq.nextQ, nextQ := [], idx := 0, cur := s.pc, curWord := s.pipe.next.word } }

theorem queueExhausted_takesNext {s : State} (hi : interruptToTake s = none) (hn : s.seq.nextQ ≠ [])
    (hok : s.pipe.next.ok = true) (hu : unpredictable (decode s.pipe.next.word) = none) :
    queueExhausted s = .next (takeNext s) := by
  simp [queueExhausted, hi, hn, hok, hu, takeNext]

section
variable {s : State} {w : ControlWord} {ws : List ControlWord} (he : exhausted s = true)
  (hint : interruptToTake (latchInterrupts s.lines s) = none) (hq : queueWords s s.seq.nextQ = w :: ws)
  (hok : s.pipe.next.ok = true) (hu : unpredictable (decode s.pipe.next.word) = none)
  (hp : condPassed w.cond s.cpsr = true)
include hq

theorem activeWord_takeNext : activeWord (takeNext (latchInterrupts s.lines s)) = w := by
  obtain ⟨k, ks, hk, rfl, -⟩ := List.map_eq_cons_iff.mp hq
  simp [activeWord, takeNext, hk]

include he hint hok hu hp

/-- The front end of a cycle in which the next instruction's condition passes (R229, R230). -/
theorem frontEnd_takesNext : frontEnd s = .next (takeNext (latchInterrupts s.lines s)) := by
  have hn : s.seq.nextQ ≠ [] := by
    intro h
    simp [queueWords, h] at hq
  have hex : exhausted (latchInterrupts s.lines s) = true := he
  have hnext := queueExhausted_takesNext hint (by simpa using hn) (by simpa using hok) (by simpa using hu)
  have hc : condPassed w.cond (takeNext (latchInterrupts s.lines s)).cpsr = true := hp
  simp [frontEnd, hex, hnext, activeWord_takeNext hq, hc]
end

/-- Enough control words for the longest recipe are free beside a next queue no longer than it (R245). -/
theorem free_of_exhausted {s : State} (h : poolForm s) (hw : Config.wf s.cfg) (he : exhausted s = true)
    (hn : s.seq.nextQ.length ≤ 20) : 20 ≤ s.pool.free.length := by
  obtain ⟨-, hperm⟩ := h
  have hcur : unexecuted s = [] := List.drop_eq_nil_of_le (of_decide_eq_true he)
  have hlen := hperm.length_eq
  obtain ⟨-, -, -, -, -, -, -, -, -, -, -, -, -, -, hmax⟩ := hw
  simp only [hcur, List.append_nil, List.length_append, List.length_range] at hlen
  omega

/-- The state on which the first stage of the next instruction runs, in a cycle that nothing stops. -/
def stageState (s : State) : State :=
  withControl { s.pipe with valid := false } (latchInterrupts s.lines s).irq
    { curQ := s.seq.nextQ, nextQ := [], idx := 0, cur := s.pc, curWord := s.pipe.next.word }
    { s.bus with done := false } s

/-- The next cycle runs the first stage of the instruction in the next queue, and the word it fetches, `x`, is resident. -/
structure ServedBoundary (s : State) (x : Word) : Prop where
  quiet    : quietBoundary s
  wf       : Config.wf s.cfg
  coherent : cacheCoherent s.cfg s.mem s.cache
  fetched  : s.pipe.next.ok = true
  allowed  : unpredictable (decode s.pipe.next.word) = none
  inMem    : inMemory s.cfg s.pipe.fetchAddr
  resident : cacheRead s.cfg s.cache (alignWord s.pipe.fetchAddr).toNat = .hit x

/-- One cycle whose first stage fetches a resident word: the stage, then the coprocessors (R228, 20_memory.md R142,
70_reset_and_hazards.md R610). -/
theorem cycle_of_fetch_hit {s : State} {x : Word} {w : ControlWord} {ws : List ControlWord} (h : ServedBoundary s x)
    (hr : recipe s.cfg (decode s.pipe.next.word) = w :: ws) (hf : w.busDrive = .fetch)
    (hp : condPassed w.cond s.cpsr = true) :
    activeWord (stageState s) = w ∧ 20 ≤ (stageState s).pool.free.length ∧
    cycle s = andThen (backEnd { word := x, ok := true } (stageState s)) fun t => .next (coprocessorStage t) := by
  obtain ⟨⟨he, hbus, hin, hflush, -, -, ⟨hpool, hqueue⟩, hint⟩, hw, hc, hok, hu, hm, hx⟩ := h
  have hlen : s.seq.nextQ.length ≤ 20 := by
    rw [← List.length_map (as := s.seq.nextQ) s.pool.word]
    have hnext := congrArg List.length hqueue
    exact Nat.le_trans (Nat.le_of_eq hnext) (recipe_length_le s.cfg (decode s.pipe.next.word))
  have hfree : 20 ≤ s.pool.free.length := free_of_exhausted hpool hw he hlen
  rw [hr] at hqueue
  have hact := activeWord_takeNext hqueue
  have hrequest : requestOf (takeNext (latchInterrupts s.lines s)) = .fetch s.pipe.fetchAddr := by
    rw [requestOf, hact, hf]
    rfl
  refine ⟨hact, hfree, ?_⟩
  calc cycle s
      = andThen (busCycle s) fun t => .next (coprocessorStage t) := by
        simp [cycle, sampleInput, hin, flushIfRequested, hflush]
    _ = andThen (normalCycle s (takeNext (latchInterrupts s.lines s))) fun t => .next (coprocessorStage t) := by
        rw [busCycle, hbus, frontEnd_takesNext he hint hqueue hok hu hp, andThen_next]
    _ = andThen (backEnd { word := x, ok := true } (stageState s)) fun t => .next (coprocessorStage t) := by
        rw [normalCycle_fetch_hit hw hc hrequest rfl hm hx]
        rfl

end Sys2Proof.Machine
end

section
/-! SUPPORT. The two levels agree on a data-processing operation of one control word (00_scope.md R8). -/

namespace Sys2Proof.Machine

/-- The `IPIPE` action of an instruction whose fetch hits: the pipe moves on, nothing else changes. -/
theorem prefetch_hit {s : State} {x : Word} (hw : Config.wf s.cfg) (hc : cacheCoherent s.cfg s.mem s.cache)
    (hm : inMemory s.cfg s.pipe.fetchAddr)
    (hx : cacheRead s.cfg s.cache (alignWord s.pipe.fetchAddr).toNat = .hit x) :
    prefetch s = { s with pipe := { valid := true, next := s.pipe.ip, ipAddr := s.pipe.fetchAddr,
                                    ip := { word := x, ok := true }, fetchAddr := s.pipe.fetchAddr + 4 } } := by
  rw [prefetch, fetch_hit hw hc hm hx]

/-- The return of an executed control word is not among what the two levels share. -/
theorem architectural_completeStage (s : State) : architectural (completeStage s) = architectural s := rfl

/-- The coprocessors' stage of a cycle without a request moves nothing that the two levels share (log entry 12). -/
theorem architectural_coprocessorStage {s : State} (h : s.cp.request = false) :
    architectural (coprocessorStage s) = architectural s := by
  obtain ⟨cps, lines, hstage⟩ := coprocessorStage_eq s
  rw [hstage]
  simp [architectural, h]

theorem exhausted_coprocessorStage (s : State) : exhausted (coprocessorStage s) = exhausted s := by
  obtain ⟨cps, lines, hstage⟩ := coprocessorStage_eq s
  rw [hstage]
  rfl

/-- One cycle of a word that is one operation leaves what the operation and a prefetch leave. -/
theorem cycle_word_agrees {d : DpOperation} {c : Cond} {s : State} {x : Word} (h : ServedBoundary s x)
    (ha : pipeAddresses s) (hr : recipe s.cfg (decode s.pipe.next.word) = [d.word c])
    (hp : condPassed c s.cpsr = true) :
    ∃ t, cycle s = .next t ∧ architectural t = architectural (advance (prefetch (d.apply s))) ∧ exhausted t = true := by
  obtain ⟨hact, hfree, hcycle⟩ := cycle_of_fetch_hit h hr rfl hp
  obtain ⟨p, q, l, hback⟩ := backEnd_word { word := x, ok := true } hact rfl hfree
  rw [hback, andThen_next, stageState, d.apply_withControl] at hcycle
  obtain ⟨hcfg, hpc, hmem, hcache, hpipe, -, hcp⟩ := d.apply_frame s
  obtain ⟨-, -, -, -, hreq, hvalid, ⟨-, hqueue⟩, -⟩ := h.quiet
  obtain ⟨hip, -⟩ := ha hvalid
  refine ⟨_, hcycle, ?_, ?_⟩
  · have hprefetch := prefetch_hit (s := d.apply s) (x := x)
    simp only [hcfg, hmem, hcache, hpipe] at hprefetch
    refine (architectural_coprocessorStage ((congrArg (·.request) hcp).trans hreq)).trans ?_
    rw [architectural_completeStage, hprefetch h.wf h.coherent h.inMem h.resident]
    simp [architectural, pipeMoved, withControl, hcfg, hpc, hmem, hcache, hip]
  · have hlen : s.seq.nextQ.length = 1 := by simpa [queueWords, hr] using congrArg List.length hqueue
    rw [exhausted_coprocessorStage]
    simp [exhausted, completeStage, pipeMoved, withControl, hlen]

/-! The sixteen operations as single operations -/

theorem dpRecipe_eq_word {c : Cond} {op2 : Operand2} (op : AluOp) (sf : Bool) (rn : Option Reg) {rd : Reg}
    (hrd : rd ≠ 15) (hop : isRegShift op2 = false) :
    withCond c (dpRecipe op sf (rn.elim .none .reg) rd op2) = [DpOperation.word ⟨op, sf, rn, op2, some rd⟩ c] := by
  simp [withCond, dpRecipe, hrd, hop, DpOperation.word]

theorem compareRecipe_eq_word {c : Cond} {op2 : Operand2} (op : AluOp) (rn : Reg) (hop : isRegShift op2 = false) :
    withCond c (compareRecipe op rn op2) = [DpOperation.word ⟨op, true, some rn, op2, none⟩ c] := by
  have hdest : (withOperand2 { aSel := .reg rn, aluOp := op } op2).dest = none := by cases op2 <;> rfl
  simp [withCond, compareRecipe, hop, DpOperation.word, hdest]

theorem dataProcessing_eq_apply (op : AluOp) (sf : Bool) (rn : Option Reg) {rd : Reg} (op2 : Operand2) (s : State)
    (hrd : rd ≠ 15) : dataProcessing op sf (rn.elim 0 (readReg s)) rd op2 s =
      .next (advance (prefetch (DpOperation.apply ⟨op, sf, rn, op2, some rd⟩ s))) := by
  simp only [dataProcessing, if_neg hrd]
  rfl

theorem compareOp_eq_apply (op : AluOp) (rn : Reg) (op2 : Operand2) (s : State) :
    compareOp op rn op2 s = .next (advance (prefetch (DpOperation.apply ⟨op, true, some rn, op2, none⟩ s))) := rfl

/-- An instruction is the operation `d` under condition `c` at both levels: its recipe is the one word of `d`, and, where it
is not refused and its condition passes, its meaning is `d` and the advance of the pipe. -/
def isOperation (c : Cond) (d : DpOperation) (i : Instr) (s : State) : Prop :=
  recipe s.cfg i = [d.word c] ∧
    (unpredictable i = none → condPassed c s.cpsr = true → exec i s = .next (advance (prefetch (d.apply s))))

/-- An instruction with the recipe and the meaning of an operation that writes a register (R241, R330). -/
theorem isOperation_of_dataProcessing {c : Cond} {op : AluOp} {sf : Bool} {rn : Option Reg} {rd : Reg} {op2 : Operand2}
    {i : Instr} {s : State} (hrd : rd ≠ 15) (hop : isRegShift op2 = false)
    (hr : recipe s.cfg i = withCond c (dpRecipe op sf (rn.elim .none .reg) rd op2))
    (he : exec i s = conditional c (unpredictable i) s
      fun s => dataProcessing op sf (rn.elim 0 (readReg s)) rd op2 s) :
    isOperation c ⟨op, sf, rn, op2, some rd⟩ i s :=
  ⟨hr.trans (dpRecipe_eq_word op sf rn hrd hop), fun hu hp =>
    he.trans ((conditional_passed hu hp).trans (dataProcessing_eq_apply op sf rn op2 s hrd))⟩

/-- An instruction with the recipe and the meaning of a compare (R241, R330). -/
theorem isOperation_of_compare {c : Cond} {op : AluOp} {rn : Reg} {op2 : Operand2} {i : Instr} {s : State}
    (hop : isRegShift op2 = false) (hr : recipe s.cfg i = withCond c (compareRecipe op rn op2))
    (he : exec i s = conditional c (unpredictable i) s fun s => compareOp op rn op2 s) :
    isOperation c ⟨op, true, some rn, op2, none⟩ i s :=
  ⟨hr.trans (compareRecipe_eq_word op rn hop), fun hu hp =>
    he.trans ((conditional_passed hu hp).trans (compareOp_eq_apply op rn op2 s))⟩

theorem writingForms_isOperation {c : Cond} {sf : Bool} {rn rd : Reg} {op : Operand2} {s : State} {i : Instr}
    (hrd : rd ≠ 15) (hop : isRegShift op = false) (h : i ∈ (writingForms c sf rn rd op s).map (·.1)) :
    ∃ d, isOperation c d i s := by
  simp only [writingForms, arithForms, logicForms, moveForms, List.map_cons, List.map_nil, List.cons_append,
    List.nil_append, List.mem_cons, List.not_mem_nil, or_false] at h
  rcases h with rfl | rfl | rfl | rfl | rfl | rfl | rfl | rfl | rfl | rfl | rfl | rfl
  iterate 10 exact ⟨_, isOperation_of_dataProcessing (rn := some rn) hrd hop rfl rfl⟩
  iterate 2 exact ⟨_, isOperation_of_dataProcessing (rn := none) hrd hop rfl rfl⟩

theorem compares_isOperation {c : Cond} {rn : Reg} {op : Operand2} {s : State} {i : Instr} (hop : isRegShift op = false)
    (h : i ∈ [Instr.tst c rn 0 op, .teq c rn 0 op, .cmp c rn 0 op, .cmn c rn 0 op]) : ∃ d, isOperation c d i s := by
  simp only [List.mem_cons, List.not_mem_nil, or_false] at h
  rcases h with rfl | rfl | rfl | rfl
  all_goals exact ⟨_, isOperation_of_compare hop rfl rfl⟩

/-- Settles O56: each of the sixteen operations is one operation at both levels, and a cycle of its word leaves what the
operation and the prefetch leave. -/
theorem oneCycleDataProcessing : Obligations.OneCycleDataProcessing := by
  intro c sf rn rd op s hq hw hc ha hp hop hok hm ⟨x, hx⟩ i hi hu hi'
  subst hi'
  obtain ⟨d, hr, he⟩ : ∃ d, isOperation c d (decode s.pipe.next.word) s := by
    rcases hi with ⟨hrd, hi⟩ | hi
    · exact writingForms_isOperation hrd hop hi
    · exact compares_isOperation hop hi
  obtain ⟨t, ht, harch, hex⟩ := cycle_word_agrees ⟨hq, hw, hc, hok, hu, hm, hx⟩ ha hr hp
  exact ⟨t, _, ht, he hu hp, harch, hex⟩

end Sys2Proof.Machine
end

section
/-! SUPPORT. A status register as a word, bit by bit, and the mode field read back (10_state.md R30, R31, R50). -/

namespace Sys2Proof.Machine

/-! The mode field -/

theorem modeOfCode_eq_some {b : BitVec 5} {m : Mode} : modeOfCode b = some m ↔ b = modeCode m := by
  revert b
  cases m <;> decide

@[simp] theorem modeOfCode_modeCode (m : Mode) : modeOfCode (modeCode m) = some m := modeOfCode_eq_some.mpr rfl

/-! The word of a status register -/

/-- Fields side by side, as a number. -/
theorem append_toNat {m n : Nat} (x : BitVec m) (y : BitVec n) : (x ++ y).toNat = x.toNat * 2 ^ n + y.toNat := by
  rw [BitVec.toNat_append, ← Nat.shiftLeft_add_eq_or_of_lt y.isLt, Nat.shiftLeft_eq]

/-- The fields of a status register side by side (R50): the sum of `psrWord` has no carries. -/
theorem psrWord_eq_append (p : Psr) : psrWord p = BitVec.ofBool p.n ++ BitVec.ofBool p.z ++ BitVec.ofBool p.c ++
    BitVec.ofBool p.v ++ 0#20 ++ BitVec.ofBool p.i ++ BitVec.ofBool p.f ++ 0#1 ++ modeCode p.mode := by
  have := p.n.toNat_lt
  have := p.z.toNat_lt
  have := p.c.toNat_lt
  have := p.v.toNat_lt
  have := p.i.toNat_lt
  have := p.f.toNat_lt
  have := (modeCode p.mode).isLt
  apply BitVec.eq_of_toNat_eq
  simp only [psrWord, append_toNat, BitVec.toNat_ofNat, BitVec.toNat_ofBool]
  omega

/-- The bits of a status register as a word (R50), rising: the mode, T, the masks, the reserved bits, the flags. -/
theorem psrWord_getElem (p : Psr) (k : Nat) (hk : k < 32) : (psrWord p)[k] =
    if k < 5 then (modeCode p.mode).getLsbD k else if k = 5 then false else if k = 6 then p.f else if k = 7 then p.i
    else if k < 28 then false else if k = 28 then p.v else if k = 29 then p.c else if k = 30 then p.z else p.n := by
  rw [← BitVec.getLsbD_eq_getElem, psrWord_eq_append]
  simp only [BitVec.getLsbD_append, BitVec.getLsbD_ofBool, BitVec.getLsbD_zero]
  rcases Nat.lt_or_ge k 28 with h | h
  · grind
  · obtain rfl | rfl | rfl | rfl : k = 28 ∨ k = 29 ∨ k = 30 ∨ k = 31 := by omega
    all_goals simp

theorem reservedMask_getElem : ∀ k, (hk : k < 32) → (0x0FFFFF20#32)[k] = (k == 5 || (8 ≤ k && k < 28)) := by decide

theorem fieldsMask_getElem : ∀ k, (hk : k < 32) → (0xF00000FF#32)[k] = (k < 8 || 28 ≤ k) := by decide

/-- The reserved bits and T are zero (R50). -/
theorem psrWord_reserved (p : Psr) : psrWord p &&& 0x0FFFFF20#32 = 0#32 := by
  ext k hk
  rw [BitVec.getElem_and, psrWord_getElem, reservedMask_getElem k hk, BitVec.getElem_zero]
  grind

@[simp] theorem psrWord_modeField (p : Psr) : (psrWord p).extractLsb' 0 5 = modeCode p.mode := by
  ext k hk
  have hk' : k < 32 := by omega
  simp [BitVec.getLsbD_eq_getElem, psrWord_getElem, hk, hk']

@[simp] theorem psrWord_thumbBit (p : Psr) : (psrWord p).getLsbD 5 = false := by simp [psrWord_getElem]

/-- A status register written to a word and read back (R56). -/
@[simp] theorem psrOfWord_psrWord (p : Psr) : psrOfWord (psrWord p) p.mode = p := by
  simp [psrOfWord, psrWord_getElem]

/-- A word read as a status register and written back keeps its fields and loses the rest (R50, R56). -/
theorem psrWord_psrOfWord {v : Word} {m : Mode} (ht : v.getLsbD 5 = false) (hm : v.extractLsb' 0 5 = modeCode m) :
    psrWord (psrOfWord v m) = v &&& 0xF00000FF#32 := by
  ext k hk
  have hmode : k < 5 → (modeCode m).getLsbD k = v.getLsbD k := by
    intro h
    simp [← hm, h]
  rw [psrWord_getElem, BitVec.getElem_and, fieldsMask_getElem k hk]
  simp only [psrOfWord]
  rcases Nat.lt_or_ge k 28 with h | h
  · grind
  · obtain rfl | rfl | rfl | rfl : k = 28 ∨ k = 29 ∨ k = 30 ∨ k = 31 := by omega
    all_goals simp

/-- Settles O18: the fields side by side give every bit, and the seven mode numbers are told apart. -/
theorem statusWordLayout : Obligations.StatusWordLayout := by
  refine ⟨fun p => ?_, rfl, rfl, rfl, rfl, rfl, rfl, rfl, fun _ _ => modeOfCode_eq_some⟩
  refine ⟨?_, ?_, ?_, ?_, ?_, ?_, psrWord_modeField p, psrWord_reserved p, psrOfWord_psrWord p⟩
  all_goals simp [psrWord_getElem]

end Sys2Proof.Machine
end

section
/-! SUPPORT. The CPSR restored from an SPSR (10_state.md R55, R56), and what an entry left there (60_exceptions.md R550,
R557). -/

namespace Sys2Proof.Machine

/-- User and System mode alone have no SPSR (R55). -/
theorem readSpsr_eq_none {s : State} : readSpsr s = none ↔ s.cpsr.mode = .usr ∨ s.cpsr.mode = .sys := by
  cases h : s.cpsr.mode <;> simp [readSpsr, h, modeBank, spsrIndex]

theorem checkMode_thumb {v : Word} (h : v.getLsbD 5 = true) : checkMode v = .fault .thumbState := by
  simp only [checkMode, h, if_true]

/-- With T clear the mode field decides (R31). -/
theorem checkMode_arm {v : Word} (h : v.getLsbD 5 = false) : checkMode v =
    (modeOfCode (v.extractLsb' 0 5)).elim (.fault .invalidMode) .next := by
  simp only [checkMode, h]
  cases modeOfCode (v.extractLsb' 0 5) <;> rfl

theorem restoreCpsr_of_readSpsr {s : State} {v : Word} (h : readSpsr s = some v) :
    restoreCpsr s = andThen (checkMode v) fun m => .next { s with cpsr := psrOfWord v m } := by
  simp only [restoreCpsr, h]

/-- Settles O12: no SPSR, else the check of its T bit and mode field, else its fields. -/
theorem restoreCpsrCases : Obligations.RestoreCpsrCases := by
  intro s
  refine ⟨fun h => ?_, fun v hv ht => ?_, fun v hv ht hm => ?_, fun v m hv ht hm => ?_⟩
  · simp only [restoreCpsr, readSpsr_eq_none.mpr h]
  · rw [restoreCpsr_of_readSpsr hv, checkMode_thumb ht, andThen_fault]
  · rw [restoreCpsr_of_readSpsr hv, checkMode_arm ht, hm, Option.elim_none, andThen_fault]
  · rw [restoreCpsr_of_readSpsr hv, checkMode_arm ht, hm, Option.elim_some, andThen_next]
    exact ⟨_, rfl, psrWord_psrOfWord ht (modeOfCode_eq_some.mp hm), rfl, rfl⟩

/-- Every exception is entered in a mode with an SPSR (R55; 60_exceptions.md R540). -/
theorem excMode_spsr (e : Exc) : ∃ k, spsrIndex (modeBank (excMode e)) = some k := by
  cases e <;> exact ⟨_, rfl⟩

/-- The handler finds the old CPSR in its SPSR (60_exceptions.md R550). -/
theorem readSpsr_enterException (e : Exc) (lr : Word) (s : State) :
    readSpsr (enterException e lr s) = some (psrWord s.cpsr) := by
  obtain ⟨k, hk⟩ := excMode_spsr e
  have hspsr := saveState_spsr e lr s k
  rw [if_pos hk] at hspsr
  simpa [readSpsr, enterException, hk] using hspsr

/-- A status register is always fit to be restored. -/
theorem checkMode_psrWord (p : Psr) : checkMode (psrWord p) = .next p.mode := by
  rw [checkMode_arm (psrWord_thumbBit p), psrWord_modeField, modeOfCode_modeCode, Option.elim_some]

/-- Settles O11: the handler's SPSR is the word of the old CPSR, which reads back as it was. -/
theorem exceptionRoundTrip : Obligations.ExceptionRoundTrip := by
  intro e lr s _
  refine ⟨{ enterException e lr s with cpsr := s.cpsr }, ?_, rfl, fun q hq => ?_⟩
  · rw [restoreCpsr_of_readSpsr (readSpsr_enterException e lr s), checkMode_psrWord, andThen_next, psrOfWord_psrWord]
  · simpa [enterException, hq] using saveState_regs e lr s q

end Sys2Proof.Machine
end

section
/-! SUPPORT. A reset line in a step (10_state.md R80, 70_reset_and_hazards.md R600, R601). -/

namespace Sys2Proof.Machine

/-- A reset line in the next sample is taken in place of the instruction (60_exceptions.md R558; log entry 9). -/
theorem step_of_resetLine {s : State} {x : Input} {rest : List Input} (hs : s.inputs = x :: rest)
    (hx : x.reset = true) : step s = .next (doReset (sampleInput s).2) := by
  simp [step, sampleInput, hs, hx]

/-- The sample taken is used up. -/
theorem sampleInput_inputs {s : State} {x : Input} {rest : List Input} (hs : s.inputs = x :: rest) :
    (sampleInput s).2.inputs = rest := by
  simp [sampleInput, hs]

/-- The seed recipe is queued and every other control word is free (R80). -/
theorem doReset_poolForm {s : State} (h : 2 ≤ s.cfg.maxInstLen) : poolForm (doReset s) := by
  obtain ⟨hlen, hperm⟩ := seededPool_perm h
  exact ⟨hlen, by simpa [doReset, State.reset, unexecuted] using hperm⟩

theorem doReset_sum (s : State) : (doReset s).mul.sum = 0 := show State.reset.mul.sum = 0 by decide

theorem doReset_carry (s : State) : (doReset s).mul.carry = 0 := show State.reset.mul.carry = 0 by decide

/-- Settles O15: the step is `doReset`, whose fields are those of the reset state or kept. -/
theorem resetLine : Obligations.ResetLine := by
  intro s x rest hs hx
  refine ⟨_, step_of_resetLine hs hx, ?_⟩
  refine ⟨rfl, rfl, rfl, rfl, rfl, rfl, rfl, rfl, rfl, doReset_sum _, doReset_carry _, rfl, rfl, rfl, rfl, rfl, rfl, rfl,
    ?_, rfl, rfl, rfl, ?_⟩
  · intro h
    exact doReset_poolForm (by simp only [sampleInput_cfg]; omega)
  · simp [doReset, sampleInput_inputs hs]

end Sys2Proof.Machine
end

section
/-! SUPPORT. Which places the banks share (10_state.md R34, R40). -/

namespace Sys2Proof.Machine

/-- R0 to R7 are places 0 to 7 in every bank (R34). -/
theorem phys_low {b : Bank} {i : Reg} (h : i.val < 8) : phys b i = some (Fin.castLE (by decide) i) := by
  revert h
  cases b <;> revert i <;> decide

/-- Outside FIQ, R8 to R12 are the User bank's (R34). -/
theorem phys_middle {b : Bank} {i : Reg} (h : i.val < 13) (hb : b ≠ .fiq) : phys b i = phys .usr i := by
  revert h hb
  cases b <;> revert i <;> decide

theorem phys_fiq_ne_usr {i : Reg} (h8 : 8 ≤ i.val) (h13 : i.val < 13) : phys .fiq i ≠ phys .usr i := by
  revert h8 h13
  revert i
  decide

/-- The bank of each place that holds an R13 or an R14, in the order of `physTable`. -/
def bankOf (q : Fin 30) : Bank :=
  if q.val < 15 then .usr else if q.val < 22 then .fiq else if q.val < 24 then .irq else if q.val < 26 then .svc
  else if q.val < 28 then .abt else .und

theorem bankOf_phys (b : Bank) (i : Reg) (h : 13 ≤ i.val) : ∀ q, phys b i = some q → bankOf q = b := by
  revert h
  cases b <;> revert i <;> decide

/-- R13 and R14 of two banks are two registers (R34). -/
theorem phys_bank_injective {b b' : Bank} {i : Reg} (h13 : 13 ≤ i.val) (h15 : i.val < 15) :
    phys b i = phys b' i ↔ b = b' := by
  refine ⟨fun h => ?_, fun h => by rw [h]⟩
  obtain ⟨q, hq⟩ := phys_isSome (b := b) (i := i) (by rintro rfl; omega)
  exact (bankOf_phys b i h13 q hq).symm.trans (bankOf_phys b' i h13 q (h ▸ hq))

/-- Settles O16: a place names its register, and for R13 and R14 its bank. -/
theorem bankedRegisters : Obligations.BankedRegisters := by
  refine ⟨fun b b' i h => ?_, fun b i h8 h13 hb => ?_, fun b b' i => phys_bank_injective, fun b b' i j hi h => ?_, rfl,
    phys_fifteen, fun s => ?_⟩
  · rw [phys_low h, phys_low h]
  · exact ⟨phys_middle h13 hb, phys_fiq_ne_usr h8 h13⟩
  · obtain ⟨q, hq⟩ := phys_isSome (b := b) (i := i) (by rintro rfl; omega)
    exact phys_injective hq (h ▸ hq)
  · simp [readReg, readBank, phys_fifteen]

end Sys2Proof.Machine
end

section
/-! SUPPORT. The live and shadow banks (10_state.md R43 to R46): which slots the shadow banks have, what a slot reads after a
write, and what the two halves of the swap leave in the live registers and in the slots. -/

namespace Sys2Proof.Machine

/-- A slot of a bank read after a write inside the bank. -/
theorem getD_setIfInBounds {n k j : Nat} (x : Vector Word n) (v : Word) (hk : k < n) :
    (x.setIfInBounds k v).getD j 0 = if k = j then v else x.getD j 0 := by
  rcases Nat.lt_or_ge j n with hj | hj
  · simp [Vector.getD, hj, Array.getElem_setIfInBounds]
  · have hne : k ≠ j := by omega
    simp [Vector.getD, Nat.not_lt.mpr hj, hne]

/-- The first register a shadow bank has a slot for (R43): R8 in User and FIQ, R13 in the other banks. -/
def firstShadow : Bank → Nat
  | .usr => 8
  | .fiq => 8
  | .irq => 13
  | .svc => 13
  | .abt => 13
  | .und => 13

/-- A bank's shadow slots (R43) reach from its first to R14. -/
abbrev shadowSlot (b : Bank) (i : Nat) : Prop := firstShadow b ≤ i ∧ i < 15

/-- A shadow slot reads what was written to it, every other slot of the bank what it held. -/
theorem shadowGet_shadowSet_sameBank {b : Bank} {i j : Nat} (f : BankedFile) (v : Word) (hi : shadowSlot b i)
    (hj : shadowSlot b j) : shadowGet (shadowSet f b i v) b j = if i = j then v else shadowGet f b j := by
  obtain ⟨hi, hi'⟩ := hi
  obtain ⟨hj, hj'⟩ := hj
  have hsub : i - firstShadow b = j - firstShadow b ↔ i = j := by omega
  cases b
  all_goals
    simp only [firstShadow] at hi hj hsub
    simp (disch := omega) only [shadowGet, shadowSet, getD_setIfInBounds, hsub]

theorem shadowGet_shadowSet_otherBank {b b' : Bank} (f : BankedFile) (i j : Nat) (v : Word) (h : b ≠ b') :
    shadowGet (shadowSet f b i v) b' j = shadowGet f b' j := by
  cases b <;> cases b' <;> trivial

theorem mem_swapSet {bo bn : Bank} {i : Nat} :
    i ∈ swapSet bo bn ↔ i < 15 ∧ (isBanked bo i = true ∨ isBanked bn i = true) := by
  simp [swapSet]

theorem isBanked_bounds {b : Bank} {i : Nat} (h : isBanked b i = true) : 8 ≤ i ∧ shadowSlot b i := by
  cases b <;> simp [isBanked, shadowSlot, firstShadow] at h ⊢ <;> omega

/-- Every register from R8 has a shadow slot in the bank it is stored in. -/
theorem shadowSlot_storeBank (b : Bank) {i : Nat} (h8 : 8 ≤ i) (hi : i < 15) : shadowSlot (storeBank b i) i := by
  unfold storeBank
  split
  · next h => exact (isBanked_bounds h).2
  · exact ⟨h8, hi⟩

theorem shadowSlot_of_mem_swapSet {bo bn : Bank} {i : Nat} (b : Bank) (h : i ∈ swapSet bo bn) :
    shadowSlot (storeBank b i) i := by
  obtain ⟨hi, h⟩ := mem_swapSet.mp h
  exact shadowSlot_storeBank b (h.elim (fun h => (isBanked_bounds h).1) fun h => (isBanked_bounds h).1) hi

@[simp] theorem shadowSet_live (f : BankedFile) (b : Bank) (i : Nat) (v : Word) : (shadowSet f b i v).live = f.live := by
  cases b <;> rfl

@[simp] theorem saveOutgoing_live (bo : Bank) (f : BankedFile) (l : List Nat) : (saveOutgoing bo f l).live = f.live := by
  induction l generalizing f with
  | nil => rfl
  | cons i l ih => simp [saveOutgoing, ih]

@[simp] theorem loadIncoming_shadow (bn : Bank) (f : BankedFile) (l : List Nat) (b : Bank) (j : Nat) :
    shadowGet (loadIncoming bn f l) b j = shadowGet f b j := by
  induction l generalizing f with
  | nil => rfl
  | cons i l ih =>
    rw [loadIncoming, ih]
    cases b <;> rfl

/-- The outgoing registers saved (R45): the slots they are stored in hold the live registers, the others what they held. -/
theorem shadowGet_saveOutgoing {bo : Bank} (f : BankedFile) {l : List Nat} {b : Bank} {j : Nat}
    (hl : ∀ i ∈ l, shadowSlot (storeBank bo i) i) (hj : shadowSlot b j) : shadowGet (saveOutgoing bo f l) b j =
      if j ∈ l ∧ b = storeBank bo j then f.live.getD j 0 else shadowGet f b j := by
  induction l generalizing f with
  | nil => simp [saveOutgoing]
  | cons i l ih =>
    simp only [List.forall_mem_cons] at hl
    obtain ⟨hi, hl⟩ := hl
    rw [saveOutgoing, ih _ hl, shadowSet_live]
    rcases Decidable.em (storeBank bo i = b) with hb | hb
    · subst hb
      rw [shadowGet_shadowSet_sameBank f _ hi hj]
      grind
    · rw [shadowGet_shadowSet_otherBank f _ _ _ hb]
      grind

/-- The incoming registers loaded (R45): they are live, the other live registers stay. -/
theorem loadIncoming_live (bn : Bank) (f : BankedFile) {l : List Nat} (hl : ∀ i ∈ l, i < 15) (j : Nat) :
    (loadIncoming bn f l).live.getD j 0 = if j ∈ l then shadowGet f (storeBank bn j) j else f.live.getD j 0 := by
  induction l generalizing f with
  | nil => simp [loadIncoming]
  | cons i l ih =>
    simp only [List.forall_mem_cons] at hl
    obtain ⟨hi, hl⟩ := hl
    have hshadow (b : Bank) (v : Word) : shadowGet { f with live := f.live.setIfInBounds i v } b j = shadowGet f b j := by
      cases b <;> rfl
    rw [loadIncoming, ih _ hl, hshadow, getD_setIfInBounds _ _ hi]
    grind

/-- `R<i>` of two banks is one physical register exactly when both store it in one bank (R40, R45). -/
theorem phys_eq_iff_storeBank (b b' : Bank) : ∀ i, i < 15 →
    (phys b (Fin.ofNat 16 i) = phys b' (Fin.ofNat 16 i) ↔ storeBank b i = storeBank b' i) := by
  cases b <;> cases b' <;> decide

/-- A register outside the swap is stored in the User bank by both banks, so it is live in both. -/
theorem storeBank_of_not_mem {bo bn : Bank} {i : Nat} (hi : i < 15) (h : i ∉ swapSet bo bn) :
    storeBank bo i = .usr ∧ storeBank bn i = .usr := by
  simp only [mem_swapSet, not_and, not_or] at h
  obtain ⟨ho, hn⟩ := h hi
  exact ⟨if_neg ho, if_neg hn⟩

/-- A register that two banks store apart is swapped between them. -/
theorem mem_swapSet_of_ne {bo bn : Bank} {i : Nat} (hi : i < 15) (h : storeBank bo i ≠ storeBank bn i) :
    i ∈ swapSet bo bn := by
  refine Decidable.byContradiction fun hm => ?_
  obtain ⟨ho, hn⟩ := storeBank_of_not_mem hi hm
  exact h (ho.trans hn.symm)

/-- A register of a bank is live where the mode's bank stores it in the same place, else in its slot (R44). -/
theorem bankedReg_eq (m : Mode) (f : BankedFile) (b : Bank) {i : Nat} (hi : i < 15) : bankedReg m f b i =
    if storeBank (modeBank m) i = storeBank b i then f.live.getD i 0 else shadowGet f (storeBank b i) i := by
  simp only [bankedReg, phys_eq_iff_storeBank _ _ i hi]

section
variable {old new : Mode} {f : BankedFile} {b : Bank} {i : Nat} (hdiff : modeBank old ≠ modeBank new)
include hdiff

/-- The slots after a swap (R45): an outgoing register is in the slot it is stored in. -/
theorem swapBanks_shadow (hslot : shadowSlot b i) : shadowGet (swapBanks old new f) b i =
    if i ∈ swapSet (modeBank old) (modeBank new) ∧ b = storeBank (modeBank old) i then f.live.getD i 0
    else shadowGet f b i := by
  rw [show swapBanks old new f = _ from if_neg hdiff, loadIncoming_shadow,
    shadowGet_saveOutgoing f (fun _ h => shadowSlot_of_mem_swapSet _ h) hslot]

/-- The live registers after a swap (R45): an incoming register comes from the slot it was stored in, unless the outgoing
one is stored there too. -/
theorem swapBanks_live (hi : i < 15) : (swapBanks old new f).live.getD i 0 =
    if storeBank (modeBank old) i = storeBank (modeBank new) i then f.live.getD i 0
    else shadowGet f (storeBank (modeBank new) i) i := by
  have hout := storeBank_of_not_mem (bo := modeBank old) (bn := modeBank new) hi
  rw [show swapBanks old new f = _ from if_neg hdiff, loadIncoming_live _ _ (fun _ h => (mem_swapSet.mp h).1),
    saveOutgoing_live]
  split
  · next hmem =>
    rw [shadowGet_saveOutgoing f (fun _ h => shadowSlot_of_mem_swapSet _ h) (shadowSlot_of_mem_swapSet _ hmem)]
    simp only [hmem, true_and, eq_comm]
  · next hmem => rw [(hout hmem).1, (hout hmem).2, if_pos rfl]

end

/-- A swap keeps register `i` of every bank (R44, R45): live before and after, or moved to or from its slot, or left in
it. -/
theorem bankedReg_swapBanks (old new : Mode) (f : BankedFile) (b : Bank) {i : Nat} (hi : i < 15) :
    bankedReg new (swapBanks old new f) b i = bankedReg old f b i := by
  rw [bankedReg_eq _ _ _ hi, bankedReg_eq _ _ _ hi]
  rcases Decidable.em (modeBank old = modeBank new) with hsame | hdiff
  · rw [show swapBanks old new f = f from if_pos hsame, hsame]
  · rcases Decidable.em (storeBank (modeBank new) i = storeBank b i) with hnew | hnew
    · rw [if_pos hnew, swapBanks_live hdiff hi, hnew]
    · rw [if_neg hnew, swapBanks_shadow hdiff (shadowSlot_of_mem_swapSet b (mem_swapSet_of_ne hi hnew))]
      rcases Decidable.em (storeBank (modeBank old) i = storeBank b i) with hold | hold
      · have hmem : i ∈ swapSet (modeBank old) (modeBank new) := mem_swapSet_of_ne hi fun h => hnew (h.symm.trans hold)
        rw [if_pos ⟨hmem, hold.symm⟩, if_pos hold]
      · rw [if_neg fun h => hold h.2.symm, if_neg hold]

/-- Settles O17: a swap keeps each register of each bank, so all thirty. -/
theorem bankSwapKeepsRegisters : Obligations.BankSwapKeepsRegisters := by
  intro old new f
  simp (disch := decide) only [physOf, bankedReg_swapBanks]

end Sys2Proof.Machine
end

section
/-! SUPPORT. What an instruction does to the program counter and the pipe's addresses: it waits, advances or jumps
(10_state.md R61, R62; 40_sequencer.md R226, R236). -/

namespace Sys2Proof.Machine

/-! Aligned addresses -/

/-- A multiple of 4, as its number. -/
theorem lowBits_eq_zero {a : Word} : a.extractLsb' 0 2 = 0 ↔ a.toNat % 4 = 0 := by
  simpa using field_eq_iff a 0 2 0

theorem alignWord_aligned (a : Word) : (alignWord a).extractLsb' 0 2 = 0 := by
  rw [lowBits_eq_zero, alignWord_toNat]
  omega

theorem aligned_add {a b : Word} (ha : a.extractLsb' 0 2 = 0) (hb : b.extractLsb' 0 2 = 0) :
    (a + b).extractLsb' 0 2 = 0 := by
  rw [lowBits_eq_zero] at ha hb ⊢
  rw [BitVec.toNat_add]
  omega

theorem vector_aligned (e : Exc) : (vector e).extractLsb' 0 2 = 0 := by cases e <;> decide

theorem branchTarget_aligned {a : Word} (imm24 : BitVec 24) (ha : a.extractLsb' 0 2 = 0) :
    (branchTarget a imm24).extractLsb' 0 2 = 0 := by
  refine aligned_add (aligned_add ha (by decide)) ?_
  ext k hk
  rw [BitVec.getElem_extractLsb', BitVec.getLsbD_signExtend, if_pos (by omega), BitVec.getLsbD_append,
    if_pos (by omega)]
  simp

/-! The three ways an instruction ends -/

/-- The pc where it was, the pipe's addresses one word on (40_sequencer.md R226). -/
@[simp] def prefetchedFrom (s u : State) : Prop :=
  u.pc = s.pc ∧ u.pipe.ipAddr = s.pipe.fetchAddr ∧ u.pipe.fetchAddr = s.pipe.fetchAddr + 4

/-- What an instruction does to the pc and the pipe's addresses: a wait leaves them (48_coprocessor.md R512), an instruction
that does not write R15 moves the pc and the pipe one word on (R62, R226), a control transfer leaves the pipe refilled from
an aligned address (R236). -/
inductive PipeMove (s t : State) : Prop
  | held (hpc : t.pc = s.pc) (hpipe : t.pipe = s.pipe)
  | advanced (hpc : t.pc = s.pc + 4) (hip : t.pipe.ipAddr = s.pipe.fetchAddr)
      (hfetch : t.pipe.fetchAddr = s.pipe.fetchAddr + 4)
  | jumped (hpc : pcAligned t) (hpipe : pipeAddresses t)

/-- A move from a filled pipe ends in the pipe's form (R61, R226). -/
theorem PipeMove.keeps {s t : State} (h : PipeMove s t) (hpc : pcAligned s) (hpipe : pipeAddresses s)
    (hvalid : s.pipe.valid = true) : pcAligned t ∧ pipeAddresses t := by
  obtain ⟨hip, hfetch⟩ := hpipe hvalid
  cases h with
  | held tpc tpipe => exact ⟨by rwa [pcAligned, tpc], fun _ => by rw [tpipe, tpc]; exact ⟨hip, hfetch⟩⟩
  | advanced tpc tip tfetch =>
    refine ⟨by rw [pcAligned, tpc]; exact aligned_add hpc (by decide), fun _ => ?_⟩
    simp [tip, tfetch, tpc, hfetch, BitVec.add_assoc]
  | jumped tpc tpipe => exact ⟨tpc, tpipe⟩

/-- A move depends on the pc and the pipe alone. -/
theorem PipeMove.of_same {s u t : State} (h : PipeMove u t) (hpc : u.pc = s.pc) (hpipe : u.pipe = s.pipe) :
    PipeMove s t := by
  cases h with
  | held tpc tpipe => exact .held (tpc.trans hpc) (tpipe.trans hpipe)
  | advanced tpc tip tfetch => exact .advanced (by rw [tpc, hpc]) (by rw [tip, hpipe]) (by rw [tfetch, hpipe])
  | jumped tpc tpipe => exact .jumped tpc tpipe

@[simp] theorem jump_ipAddr (a : Word) (s : State) : (jump a s).pipe.ipAddr = a + 4 := by simp [jump]

@[simp] theorem jump_fetchAddr (a : Word) (s : State) : (jump a s).pipe.fetchAddr = a + 8 := by
  simp [jump, BitVec.add_assoc]

theorem jump_keeps {a : Word} (ha : a.extractLsb' 0 2 = 0) (u : State) :
    pcAligned (jump a u) ∧ pipeAddresses (jump a u) :=
  ⟨by rwa [pcAligned, jump_pc], fun _ => by simp⟩

section
variable {s t u : State}

/-- A control transfer to an aligned address, from whatever state (R236). -/
theorem jump_move {a : Word} (ha : a.extractLsb' 0 2 = 0) (u : State) : PipeMove s (jump a u) :=
  .jumped (jump_keeps ha u).1 (jump_keeps ha u).2

/-- An instruction that has prefetched and does not write R15 (R62). -/
theorem complete_move (h : complete u = .next t) (hu : prefetchedFrom s u) : PipeMove s t := by
  obtain ⟨hpc, hip, hfetch⟩ := hu
  cases h
  exact .advanced (by simp [hpc]) (by simp [hip]) (by simp [hfetch])

theorem raiseException_move {e : Exc} (h : raiseException e u = .next t) : PipeMove s t := by
  cases h
  exact jump_move (vector_aligned e) _

theorem conditional_move {c : Cond} {why : Option Unpredictable} {k : State → Result}
    (h : conditional c why s k = .next t) (hk : k s = .next t → PipeMove s t) : PipeMove s t := by
  obtain ⟨-, ⟨-, rfl⟩ | ⟨-, h⟩⟩ := conditional_cases s h
  · exact complete_move rfl (by simp)
  · exact hk h

theorem handshake_move {n : Fin 16} {w : Word} {go : State → Result} (h : handshake n w s go = .next t)
    (hgo : ∀ u, go u = .next t → PipeMove u t) : PipeMove s t := by
  obtain ⟨-, rfl⟩ | ⟨-, h⟩ | ⟨-, h⟩ := handshake_cases s h
  · exact .held (by simp) (by simp)
  · exact raiseException_move h
  · exact (hgo _ h).of_same (by simp) (by simp)

/-! The operations of the meanings -/

/-- A control transfer with or without the CPSR restored (43_data_processing.md R334, 46_block_transfer.md R465). -/
theorem restoringJump_move {a : Word} {sf : Bool} (ha : a.extractLsb' 0 2 = 0)
    (h : (if sf then andThen (restoreCpsr u) fun v => .next (jump a v) else .next (jump a u)) = .next t) :
    PipeMove s t := by
  split at h
  · obtain ⟨v, -, h⟩ := andThen_eq_next.mp h
    cases h
    exact jump_move ha v
  · cases h
    exact jump_move ha u

theorem writePc_move {res : Word} {sf : Bool} (h : writePc res sf u = .next t) : PipeMove s t := by
  unfold writePc at h
  split at h
  · cases h
  · next ha => exact restoringJump_move (Decidable.not_not.mp ha) h

theorem dataProcessing_move {op : AluOp} {sf : Bool} {a : Word} {rd : Reg} {op2 : Operand2}
    (h : dataProcessing op sf a rd op2 s = .next t) : PipeMove s t := by
  unfold dataProcessing at h
  dsimp only at h
  split at h
  · exact writePc_move h
  · exact complete_move h (by simp)

theorem compareOp_move {op : AluOp} {rn : Reg} {op2 : Operand2} (h : compareOp op rn op2 s = .next t) : PipeMove s t :=
  complete_move h (by simp)

theorem multiply_move {sf : Bool} {rd rs rm : Reg} {acc : Word} (h : multiply sf rd rs rm acc s = .next t) :
    PipeMove s t :=
  complete_move h (by simp)

theorem longMultiply_move {signed sf : Bool} {rdHi rdLo rs rm : Reg} {acc : DWord}
    (h : longMultiply signed sf rdHi rdLo rs rm acc s = .next t) : PipeMove s t :=
  complete_move h (by simp)

theorem loadPc_move {a v : Word} (h : loadPc a v u = .next t) : PipeMove s t := by
  unfold loadPc at h
  split at h
  · cases h
  · cases h
    exact jump_move (alignWord_aligned v) u

theorem load_move {w : Width} {x : Extend} {a : Address} {rn rd : Reg} (h : load w x a rn rd s = .next t) :
    PipeMove s t := by
  simp only [load, andThen_eq_next, busRead_eq_next] at h
  obtain ⟨r, ⟨-, rfl⟩, h⟩ := h
  split at h
  · exact loadPc_move h
  · exact complete_move h (by simp)

theorem store_move {w : Width} {a : Address} {rn rd : Reg} (h : store w a rn rd s = .next t) : PipeMove s t := by
  simp only [store, andThen_eq_next, busWrite_eq_next] at h
  obtain ⟨r, ⟨-, rfl⟩, h⟩ := h
  exact complete_move h (by simp)

theorem swap_move {w : Width} {rn rd rm : Reg} (h : swap w rn rd rm s = .next t) : PipeMove s t := by
  simp only [swap, andThen_eq_next, busRead_eq_next, busWrite_eq_next] at h
  obtain ⟨r, ⟨-, rfl⟩, v, ⟨-, rfl⟩, h⟩ := h
  exact complete_move h (by simp)

/-- The reads of an LDM leave the pc and the pipe. -/
theorem readMany_pc_pipe {l : List Reg} {a : Word} {r : List (Reg × Word) × State} (h : readMany l a s = .next r) :
    r.2.pc = s.pc ∧ r.2.pipe = s.pipe := by
  induction l generalizing a s r with
  | nil => cases h; exact ⟨rfl, rfl⟩
  | cons i l ih =>
    simp only [readMany, andThen_eq_next, busRead_eq_next] at h
    obtain ⟨v, ⟨-, rfl⟩, q, hq, h⟩ := h
    cases h
    simpa using ih hq

/-- The writes of an STM leave the pc and the pipe. -/
theorem writeMany_pc_pipe {l : List (Reg × Word)} {a : Word} (h : writeMany l a s = .next u) :
    u.pc = s.pc ∧ u.pipe = s.pipe := by
  induction l generalizing a s with
  | nil => cases h; exact ⟨rfl, rfl⟩
  | cons x l ih =>
    simp only [writeMany, andThen_eq_next, busWrite_eq_next] at h
    obtain ⟨v, ⟨-, rfl⟩, h⟩ := h
    simpa using ih h

@[simp] theorem assignMany_pc (b : Bank) (l : List (Reg × Word)) (s : State) : (assignMany b l s).pc = s.pc := by
  induction l generalizing s with
  | nil => rfl
  | cons x l ih => simp [assignMany, ih]

@[simp] theorem assignMany_pipe (b : Bank) (l : List (Reg × Word)) (s : State) : (assignMany b l s).pipe = s.pipe := by
  induction l generalizing s with
  | nil => rfl
  | cons x l ih => simp [assignMany, ih]

theorem finishLdm_move {sf : Bool} {target : Option Word} (h : finishLdm sf target u = .next t)
    (hu : prefetchedFrom s u) : PipeMove s t := by
  unfold finishLdm at h
  split at h
  · exact complete_move h hu
  · next v => exact restoringJump_move (alignWord_aligned v) h

theorem loadMultiple_move {m : BlockMode} {sf w : Bool} {rn : Reg} {list : BitVec 16}
    (h : loadMultiple m sf w rn list s = .next t) : PipeMove s t := by
  obtain ⟨r, hr, h⟩ := andThen_eq_next.mp h
  obtain ⟨hpc, hpipe⟩ := readMany_pc_pipe hr
  exact finishLdm_move h (by simp [hpc, hpipe])

theorem storeMultiple_move {m : BlockMode} {sf w : Bool} {rn : Reg} {list : BitVec 16}
    (h : storeMultiple m sf w rn list s = .next t) : PipeMove s t := by
  obtain ⟨u, hu, h⟩ := andThen_eq_next.mp h
  obtain ⟨hpc, hpipe⟩ := writeMany_pc_pipe hu
  exact complete_move h (by simp [hpc, hpipe])

/-- A callback leaves the pc and the pipe. -/
theorem swiHook_pc_pipe {cur : Word} {key : Nat} (h : swiHook cur key s = .next u) : u.pc = s.pc ∧ u.pipe = s.pipe := by
  unfold swiHook at h
  dsimp only at h
  split at h
  · cases h
  · cases h
    simp

/-- An MSR leaves the pc and the pipe. -/
theorem msrWrite_pc_pipe {r : PsrSel} {mask : BitVec 4} {v : Word} (h : msrWrite r mask v s = .next u) :
    u.pc = s.pc ∧ u.pipe = s.pipe := by
  cases r with
  | cpsr =>
    simp only [msrWrite, msrControl] at h
    split at h
    · obtain ⟨m, -, h⟩ := andThen_eq_next.mp h
      cases h
      simp
    · cases h
      simp
  | spsr =>
    simp only [msrWrite] at h
    split at h
    · cases h
    · cases h
      simp

theorem execSwi_move {c : Cond} {comment : BitVec 24} (h : execSwi c comment s = .next t) : PipeMove s t := by
  refine conditional_move h fun h => ?_
  split at h
  · obtain ⟨u, hu, h⟩ := andThen_eq_next.mp h
    obtain ⟨hpc, hpipe⟩ := swiHook_pc_pipe hu
    exact complete_move h (by simp [hpc, hpipe])
  · exact raiseException_move h

theorem execMrsSpsr_move {c : Cond} {rd : Reg} (h : execMrsSpsr c rd s = .next t) : PipeMove s t := by
  refine conditional_move h fun h => ?_
  split at h
  · cases h
  · exact complete_move h (by simp)

/-- The end of either form of MSR. -/
theorem msr_move {r : PsrSel} {mask : BitVec 4} {v : Word}
    (h : andThen (msrWrite r mask v (prefetch s)) complete = .next t) : PipeMove s t := by
  obtain ⟨u, hu, h⟩ := andThen_eq_next.mp h
  obtain ⟨hpc, hpipe⟩ := msrWrite_pc_pipe hu
  exact complete_move h (by simp [hpc, hpipe])

theorem execLdc_move {c : Cond} {p u n w : Bool} {rn : Reg} {crd : BitVec 4} {cp : Fin 16} {imm8 : Byte}
    (h : execLdc c p u n w rn crd cp imm8 s = .next t) : PipeMove s t := by
  refine conditional_move h fun h => handshake_move h fun v h => ?_
  obtain ⟨q, hq, h⟩ := andThen_eq_next.mp h
  obtain ⟨-, -, hpc, -, -, -, hpipe, -⟩ := loadTransfer_frame _ hq
  exact complete_move h (by simp [hpc, hpipe])

theorem execStc_move {c : Cond} {p u n w : Bool} {rn : Reg} {crd : BitVec 4} {cp : Fin 16} {imm8 : Byte}
    (h : execStc c p u n w rn crd cp imm8 s = .next t) : PipeMove s t := by
  refine conditional_move h fun h => handshake_move h fun v h => ?_
  obtain ⟨q, hq, h⟩ := andThen_eq_next.mp h
  obtain ⟨-, -, hpc, -, -, hpipe, -⟩ := storeTransfer_frame _ hq
  exact complete_move h (by simp [hpc, hpipe])

end

/-- Every instruction waits, advances or jumps. -/
theorem exec_move {i : Instr} {s t : State} (hpc : pcAligned s) (h : exec i s = .next t) : PipeMove s t := by
  cases i
  all_goals dsimp only [exec] at h
  case b c imm24 | bl c imm24 =>
    refine conditional_move h fun h => ?_
    cases h
    exact jump_move (branchTarget_aligned imm24 hpc) _
  case swi => exact execSwi_move h
  case mul | mla => exact conditional_move h multiply_move
  case umull | umlal | smull | smlal => exact conditional_move h longMultiply_move
  case and | eor | sub | rsb | add | adc | sbc | rsc | orr | mov | bic | mvn =>
    exact conditional_move h dataProcessing_move
  case tst | teq | cmp | cmn => exact conditional_move h compareOp_move
  case ldr | ldrb | ldrt | ldrbt | ldrh | ldrsb | ldrsh => exact conditional_move h load_move
  case str | strb | strt | strbt | strh => exact conditional_move h store_move
  case ldmia | ldmib | ldmda | ldmdb => exact conditional_move h loadMultiple_move
  case stmia | stmib | stmda | stmdb => exact conditional_move h storeMultiple_move
  case swp | swpb => exact conditional_move h swap_move
  case mrsCpsr => exact conditional_move h fun h => complete_move h (by simp)
  case mrsSpsr => exact execMrsSpsr_move h
  case msrReg | msrImm => exact conditional_move h msr_move
  case cdp | mcr | mrc => exact conditional_move h fun h => handshake_move h fun u h => complete_move h (by simp)
  case ldc => exact execLdc_move h
  case stc => exact execStc_move h
  case undefined => exact raiseException_move h

end Sys2Proof.Machine
end

section
/-! SUPPORT. The start of a step fills the pipe; every way a step goes on keeps its form. -/

namespace Sys2Proof.Machine

/-- After the start of a step the pipe is filled, from the pc if it was empty (40_sequencer.md R244). -/
theorem refillIfEmpty_pipe {s : State} (hpc : pcAligned s) (hpipe : pipeAddresses s) :
    pipeAddresses (refillIfEmpty s) ∧ (refillIfEmpty s).pipe.valid = true := by
  unfold refillIfEmpty
  split
  · next h => exact ⟨hpipe, h⟩
  · exact ⟨(jump_keeps hpc s).2, jump_valid s s.pc⟩

theorem beginStep_pipe {s : State} (hpc : pcAligned s) (hpipe : pipeAddresses s) :
    pipeAddresses (beginStep s) ∧ (beginStep s).pipe.valid = true := by
  have h := refillIfEmpty_pipe (s := latchInterrupts s.lines (flushIfRequested s))
    (by simpa [pcAligned] using hpc) (by simpa [pipeAddresses] using hpipe)
  exact h

/-- What a step can do: reset on a reset line, else, from the state that begins it, take the interrupt due or execute the
next instruction, which was fetched from memory (60_exceptions.md R558; 40_sequencer.md R227, R229). -/
theorem step_cases {s t u : State} (hu : beginStep (sampleInput s).2 = u) (h : step s = .next t) :
    ((sampleInput s).1 = true ∧ t = doReset (sampleInput s).2) ∨
    ((sampleInput s).1 = false ∧ ∃ e, boundaryInterrupt u = some e ∧ t = takeInterrupt e u) ∨
    (runsInstruction s ∧ u.pipe.next.ok = true ∧ exec (decode u.pipe.next.word) (makeCurrent u) = .next t) := by
  subst hu
  unfold step at h
  split at h
  · next hreset =>
    cases h
    exact .inl ⟨hreset, rfl⟩
  · next hreset =>
    have hreset := eq_false_of_ne_true hreset
    unfold runStep at h
    split at h
    · next e he =>
      cases h
      exact .inr (.inl ⟨hreset, e, he, rfl⟩)
    · next hnone =>
      unfold executeNext at h
      split at h
      · next hok => exact .inr (.inr ⟨⟨hreset, hnone⟩, hok, h⟩)
      · cases h

/-- Settles O58: the start of a step fills the pipe, and an instruction from there waits, advances or jumps. -/
theorem stepKeepsThePipe : Obligations.StepKeepsThePipe := by
  intro s t hpc hpipe h
  have hpcIn : pcAligned (sampleInput s).2 := by simpa [pcAligned] using hpc
  have hpipeIn : pipeAddresses (sampleInput s).2 := by simpa [pipeAddresses] using hpipe
  obtain ⟨haddr, hvalid⟩ := beginStep_pipe hpcIn hpipeIn
  obtain ⟨-, rfl⟩ | ⟨-, e, -, rfl⟩ | ⟨-, -, h⟩ := step_cases rfl h
  · exact ⟨show (0#32).extractLsb' 0 2 = 0 by decide, nofun⟩
  · exact jump_keeps (vector_aligned e) _
  · have hpcRun : pcAligned (makeCurrent (beginStep (sampleInput s).2)) := by simpa [pcAligned] using hpc
    exact (exec_move hpcRun h).keeps hpcRun haddr hvalid

end Sys2Proof.Machine
end

section
/-! SUPPORT. What a control transfer brings into the pipe, and the start of a step with the pipe empty (40_sequencer.md
R227, R236, R244). -/

namespace Sys2Proof.Machine

/-- A flush that was due is made, so the cache agrees with memory (20_memory.md R156, R158). -/
theorem flushIfRequested_coherent {s : State} (h : cacheSound s) :
    cacheCoherent s.cfg s.mem (flushIfRequested s).cache := by
  unfold flushIfRequested
  split
  · exact fun x hx => nomatch hx
  · next hno => exact h.resolve_left hno

theorem refill1_ip (s : State) : (refill1 s).pipe.ip = (fetch s.pipe.fetchAddr s).1 := rfl

theorem refill1_cache (s : State) : (refill1 s).cache = (fetch s.pipe.fetchAddr s).2.cache := rfl

theorem prefetch_ip (s : State) : (prefetch s).pipe.ip = (fetch s.pipe.fetchAddr s).1 := rfl

/-- A control transfer through a coherent cache leaves in the pipe the two words memory holds at its target (R227,
R236). -/
theorem jump_pipeContents {a : Word} {s : State} (hw : Config.wf s.cfg) (hc : cacheCoherent s.cfg s.mem s.cache)
    (ha : a.extractLsb' 0 2 = 0) : pipeContents (jump a s) := by
  obtain ⟨hfirst, hcoherent⟩ := fetch_coherent (s := setPc a s) hw hc (lowBits_eq_zero.mp ha)
  have ha4 : (a + 4).toNat % 4 = 0 := lowBits_eq_zero.mp (aligned_add ha (by decide))
  obtain ⟨hsecond, -⟩ := fetch_coherent (s := refill1 (setPc a s)) (by simpa using hw)
    (by simpa [refill1_cache] using hcoherent) ha4
  intro _
  simp only [jump_cfg, jump_mem, jump_pc]
  constructor
  · rw [jump, prefetch_next, refill1_ip]
    exact hfirst
  · rw [jump, prefetch_ip]
    simpa using hsecond

/-- The start of a step with the pipe empty is a control transfer to the pc, after the flush and the latch (R244,
70_reset_and_hazards.md R602). -/
theorem beginStep_of_empty {s : State} (h : s.pipe.valid = false) :
    beginStep s = releaseQueues (jump s.pc (latchInterrupts s.lines (flushIfRequested s))) := by
  simp [beginStep, refillIfEmpty, h]

/-- Settles O7: the flush makes the cache coherent, and through it the transfer to the pc fetches what memory holds. -/
theorem emptyPipeRefillsFromMemory : Obligations.EmptyPipeRefillsFromMemory := by
  intro s ⟨hw, hpc, _, _, _, _, hsound, _⟩ hempty
  have hfill : pipeContents (jump s.pc (latchInterrupts s.lines (flushIfRequested s))) :=
    jump_pipeContents (by simpa using hw) (by simpa using flushIfRequested_coherent hsound) hpc
  obtain ⟨hnext, hip⟩ := hfill rfl
  rw [beginStep_of_empty hempty]
  exact ⟨rfl, by simpa using hnext, by simpa using hip, by simp⟩

end Sys2Proof.Machine
end

section
/-! SUPPORT. A step that executes an instruction from a filled pipe (40_sequencer.md R227, R229, R231). -/

namespace Sys2Proof.Machine

/-- A step with no reset and no interrupt to take executes the next instruction (60_exceptions.md R558). -/
theorem step_of_runsInstruction {s : State} (h : runsInstruction s) :
    step s = executeNext (beginStep (sampleInput s).2) := by
  obtain ⟨hreset, hnone⟩ := h
  simp [step, runStep, hreset, hnone]

/-- The start of a step leaves a filled pipe as it is. -/
theorem beginStep_pipe_of_valid {s : State} (h : s.pipe.valid = true) : (beginStep s).pipe = s.pipe := by
  simp [beginStep, refillIfEmpty, h]

/-- A fetch from memory brings the word memory holds (R227). -/
theorem fetchedAt_inMemory {cfg : Config} {m : Memory} {a : Word} (h : inMemory cfg a) :
    fetchedAt cfg m a = { word := wordAt m a.toNat, ok := true } := by
  simp [fetchedAt, inMemory_served h]

/-- Settles O6: the next instruction in the filled pipe is the word memory holds at the pc. -/
theorem stepRunsTheDecodedInstruction : Obligations.StepRunsTheDecodedInstruction := by
  intro s i hvalid hcontents hruns hmem hdecode _
  obtain ⟨hnext, -⟩ := hcontents hvalid
  rw [fetchedAt_inMemory hmem] at hnext
  have hpipe : (beginStep (sampleInput s).2).pipe = s.pipe := by
    simpa using beginStep_pipe_of_valid (s := (sampleInput s).2) (by simpa using hvalid)
  refine ⟨?_, by simp, by simp, by simp, by simp, by simp, hpipe⟩
  simp [step_of_runsInstruction hruns, executeNext, hpipe, hnext, hdecode]

end Sys2Proof.Machine
end

section
/-! SUPPORT. An instruction whose condition fails (40_sequencer.md R230, 41_alu_shifter.md R262). -/

namespace Sys2Proof.Machine

theorem conditional_failed {c : Cond} {why : Option Unpredictable} {s : State} {effect : State → Result}
    (hw : why = none) (hp : condPassed c s.cpsr = false) : conditional c why s effect = .next (skip s) := by
  simp [conditional, hw, hp]

/-- Settles O21: every conditional instruction skips, and a skip is a prefetch and an advance of the pc. -/
theorem failedConditionOnlyAdvances : Obligations.FailedConditionOnlyAdvances := by
  intro i c s hu hc hp
  obtain ⟨effect, he⟩ := exec_eq_conditional hc
  refine ⟨skip s, (he s).trans (conditional_failed hu hp), ?_⟩
  simp [sameBytes, keepsSpecial, keepsPort]

end Sys2Proof.Machine
end

section
/-! SUPPORT. A coprocessor instruction before its acceptance (48_coprocessor.md R510 to R512). -/

namespace Sys2Proof.Machine

/-- Before `GO` a coprocessor's turn changes no plug-in's registers (R512). -/
theorem answerCycle_plugInRegs {cp : Fin 16} {s : State} (h : beforeGo s.cp = true) (j : Fin 16) :
    (answerCycle cp s).cpState[j].regs = s.cpState[j].regs := by
  unfold answerCycle
  split
  · rcases Decidable.em (cp = j) with rfl | hne
    · simp [cyclePlugIn, holdRegs, h]
    · have hval : cp.val ≠ j.val := fun e => hne (Fin.ext e)
      simp [cyclePlugIn, hval]
  · rfl

/-- A request and its reply change no plug-in's registers (R512). -/
theorem ask_plugInRegs (cp : Fin 16) (word : Word) (s : State) (j : Fin 16) :
    (ask cp word s).2.cpState[j].regs = s.cpState[j].regs := by
  have hgo : beforeGo (driveRequest word s).cp = true := rfl
  rw [ask, reply_cpState]
  exact answerCycle_plugInRegs hgo j

/-- Each of the five coprocessor instructions is, past its refusal and its condition, a handshake (R512). -/
theorem exec_cpForms {c : Cond} {op1 crn crd crm : BitVec 4} {o1 op2 : BitVec 3} {rd rn : Reg} {cp : Fin 16}
    {p u n w : Bool} {imm8 : Byte} {f : Instr × Option Unpredictable}
    (h : f ∈ cpForms c op1 crn crd crm o1 op2 rd rn cp p u n w imm8) :
    ∃ go, ∀ s, exec f.1 s = conditional c f.2 s fun s => handshake cp (encode f.1) s go := by
  simp only [cpForms, List.mem_cons, List.not_mem_nil, or_false] at h
  rcases h with rfl | rfl | rfl | rfl | rfl
  all_goals exact ⟨_, fun _ => rfl⟩

theorem handshake_wait {cp : Fin 16} {word : Word} {s : State} {go : State → Result} (h : (ask cp word s).1 = .wait) :
    handshake cp word s go = .next (ask cp word s).2 := by
  simp [handshake, h]

/-- Settles O49: a wait ends in the state after the request and its reply, which moves the port, the handshake of the
plug-in and the queue of answers alone. -/
theorem coprocessorWaitHolds : Obligations.CoprocessorWaitHolds := by
  intro c op1 crn crd crm o1 op2 rd rn cp p u n w imm8 s hp f hf hu hwait
  obtain ⟨go, hexec⟩ := exec_cpForms hf
  refine ⟨(ask cp (encode f.1) s).2, ?_, ?_⟩
  · rw [hexec, conditional_passed hu hp, handshake_wait hwait]
  · simpa [keepsSpecial, exchanged] using ask_plugInRegs cp (encode f.1) s

end Sys2Proof.Machine
end

section
/-! SUPPORT. No recipe is empty (40_sequencer.md R241). -/

namespace Sys2Proof.Machine

@[simp] theorem withCond_eq_nil {c : Cond} {ws : List ControlWord} : withCond c ws = [] ↔ ws = [] :=
  List.map_eq_nil_iff

theorem dpRecipe_ne_nil (op : AluOp) (sf : Bool) (a : ASel) (rd : Reg) (op2 : Operand2) :
    dpRecipe op sf a rd op2 ≠ [] := by
  unfold dpRecipe
  by_cases hrd : rd = 15 <;> cases hop : isRegShift op2 <;> simp [hrd]

theorem compareRecipe_ne_nil (op : AluOp) (rn : Reg) (op2 : Operand2) : compareRecipe op rn op2 ≠ [] := by
  cases hop : isRegShift op2 <;> simp [compareRecipe, hop]

theorem ldmRecipe_ne_nil (m : BlockMode) (sf w : Bool) (rn : Reg) (list : BitVec 16) :
    ldmRecipe m sf w rn list ≠ [] := by
  cases h : listed list <;> simp [ldmRecipe, h]

theorem stmRecipe_ne_nil (m : BlockMode) (sf w : Bool) (rn : Reg) (list : BitVec 16) :
    stmRecipe m sf w rn list ≠ [] := by
  cases h : listed list <;> simp [stmRecipe, h]

theorem recipe_ne_nil (cfg : Config) (i : Instr) : recipe cfg i ≠ [] := by
  cases i
  case swi c comment => simp only [recipe, ne_eq, withCond_eq_nil]; split <;> simp [entryRecipe]
  all_goals
    simp [recipe, singleLoad, halfLoad, loadRecipe, dpRecipe_ne_nil, compareRecipe_ne_nil, ldmRecipe_ne_nil,
      stmRecipe_ne_nil, entryRecipe, mulRecipe, longMulRecipe, singleStore, storeRecipe, swapRecipe, msrRecipe,
      cpTransferRecipe]

/-- Settles O55: no recipe is empty, and none is longer than 20 words. -/
theorem recipeLength : Obligations.RecipeLength := fun cfg i =>
  ⟨List.length_pos_iff.mpr (recipe_ne_nil cfg i), recipe_length_le cfg i⟩

end Sys2Proof.Machine
end

section
/-! SUPPORT. The condition table (41_alu_shifter.md R260). -/

namespace Sys2Proof.Machine

/-- Settles O20: row by row, what the flags say as equations and what they say as a test of bits are one. -/
theorem conditionTable : Obligations.ConditionTable := by
  intro p
  simp [condPassed]

end Sys2Proof.Machine
end

section
/-! SUPPORT. The shifter as one result and one carry for every amount (41_alu_shifter.md R266 to R270), its boundary
table, and what each operand form passes to it (R271 to R273). -/

namespace Sys2Proof.Machine

/-- The sign of a word in every bit, what an arithmetic shift leaves past the end. -/
theorem sshiftRight_of_le {v : Word} {n : Nat} (h : 32 ≤ n) :
    v.sshiftRight n = if v.getLsbD 31 then 0xFFFFFFFF else 0 := by
  rw [show v.getLsbD 31 = v.msb from (BitVec.msb_eq_getLsbD_last v).symm]
  cases hm : v.msb
  · simp [BitVec.sshiftRight_eq_of_msb_false hm, BitVec.ushiftRight_eq_zero h]
  · simp [BitVec.sshiftRight_eq_of_msb_true hm, BitVec.ushiftRight_eq_zero h]

theorem getLsbD_rotateRight_mod (v : Word) (n : Nat) {k : Nat} (h : k < 32) :
    (v.rotateRight n).getLsbD k = v.getLsbD ((k + n) % 32) := by
  rw [BitVec.getLsbD_rotateRight]
  by_cases hk : k < 32 - n % 32
  · rw [decide_eq_true hk, cond_true, show n % 32 + k = (k + n) % 32 by omega]
  · rw [decide_eq_false hk, cond_false, decide_eq_true h, Bool.true_and,
      show k - (32 - n % 32) = (k + n) % 32 by omega]

/-- R266 at every amount. -/
theorem shift_lsl (v : Word) (n : Nat) (c : Bool) :
    shift v .lsl n c = (v <<< n, if n = 0 then c else if n ≤ 32 then v.getLsbD (32 - n) else false) := by
  simp only [shift, shiftLsl]
  by_cases h0 : n = 0
  · simp [h0]
  by_cases h31 : n ≤ 31
  · simp [h0, h31, show n ≤ 32 by omega]
  have hout : v <<< n = 0 := BitVec.shiftLeft_eq_zero (by omega)
  by_cases h32 : n = 32
  · simp [h32, ← hout]
  · simp [h0, h31, h32, hout, show ¬ n ≤ 32 by omega]

/-- R267 at every amount: past the end there is no bit to shift out. -/
theorem shift_lsr (v : Word) (n : Nat) (c : Bool) :
    shift v .lsr n c = (v >>> n, if n = 0 then c else v.getLsbD (n - 1)) := by
  simp only [shift, shiftLsr]
  by_cases h0 : n = 0
  · simp [h0]
  by_cases h31 : n ≤ 31
  · simp [h0, h31]
  have hout : v >>> n = 0 := BitVec.ushiftRight_eq_zero (by omega)
  by_cases h32 : n = 32
  · simp [h32, ← hout]
  · simp [h0, h31, h32, hout, BitVec.getLsbD_of_ge v (n - 1) (by omega)]

/-- R268 at every amount: past the end the bit shifted out is the sign. -/
theorem shift_asr (v : Word) (n : Nat) (c : Bool) :
    shift v .asr n c = (v.sshiftRight n, if n = 0 then c else v.getLsbD (min (n - 1) 31)) := by
  simp only [shift, shiftAsr]
  by_cases h0 : n = 0
  · simp [h0]
  by_cases h31 : n ≤ 31
  · simp [h0, h31, Nat.min_eq_left (show n - 1 ≤ 31 by omega)]
  · rw [if_neg h0, if_neg h31, if_neg h0, sshiftRight_of_le (by omega), Nat.min_eq_right (by omega)]

/-- R269 at every amount. -/
theorem shift_ror (v : Word) (n : Nat) (c : Bool) :
    shift v .ror n c = (v.rotateRight n, if n = 0 then c else v.getLsbD ((n - 1) % 32)) := by
  simp only [shift, shiftRor]
  by_cases h0 : n = 0
  · simp [h0, BitVec.rotateRight, BitVec.rotateRightAux]
  rw [if_neg h0, if_neg h0, ← BitVec.rotateRight_mod_eq_rotateRight (r := n)]
  by_cases hr : n % 32 = 0
  · rw [if_pos hr, hr, show (n - 1) % 32 = 31 by omega]
    simp [BitVec.rotateRight, BitVec.rotateRightAux]
  · rw [if_neg hr, show (n - 1) % 32 = n % 32 - 1 by omega]

/-- Settles O23: the closed forms at each amount of the table; a rotation sees its amount modulo 32, and past the end a
shift leaves zero or the sign. -/
theorem shifterBoundaryTable : Obligations.ShifterBoundaryTable := by
  intro v c fill
  refine ⟨?_, ?_, ?_, ?_⟩
  · simp [shift_lsl, BitVec.shiftLeft_eq_zero]
  · simp [shift_lsr, BitVec.ushiftRight_eq_zero]
  · simp [shift_asr, sshiftRight_of_le, fill]
  · simp [shift_ror, BitVec.rotateRight, BitVec.rotateRightAux]

theorem signBit_getLsbD : ∀ k, k < 32 → (0x80000000#32).getLsbD k = decide (k = 31) := by decide

/-- R270: the carry comes in at the top, the other bits move down one place. -/
theorem shift_rrx_getLsbD (v : Word) (n : Nat) (c : Bool) {k : Nat} (h : k < 32) :
    (shift v .rrx n c).1.getLsbD k = if k = 31 then c else v.getLsbD (k + 1) := by
  simp only [shift, shiftRrx, BitVec.getLsbD_or, BitVec.getLsbD_ushiftRight]
  by_cases hk : k = 31
  · cases c <;> simp [hk]
  · cases c <;> simp [hk, signBit_getLsbD k h, Nat.add_comm]

theorem shiftAmount_eq (v : Word) : shiftAmount v = v.toNat % 256 := by
  simp [shiftAmount]

theorem operand2_regShift (rm rs : Reg) (ty : ShiftType) (s : State) : operand2 (.regShift rm ty rs) s =
    shift (readReg s rm) (regShiftOp ty) ((readReg s rs).toNat % 256) s.cpsr.c := by
  rw [operand2, shiftAmount_eq]

/-- R271: an immediate amount other than 0 is the amount. -/
theorem operand2_immShift (rm : Reg) (ty : ShiftType) {k : BitVec 5} (s : State) (h : k ≠ 0) :
    operand2 (.immShift rm ty k) s = shift (readReg s rm) (regShiftOp ty) k.toNat s.cpsr.c := by
  cases ty <;> simp only [operand2, immShift, if_neg h, regShiftOp]

/-- R272: the byte rotated right by twice the field. -/
theorem operand2_imm_getLsbD (rot : BitVec 4) (imm8 : Byte) (s : State) {j : Nat} (h : j < 32) :
    (operand2 (.imm rot imm8) s).1.getLsbD j = imm8.getLsbD ((j + 2 * rot.toNat) % 32) := by
  have hlt : (j + 2 * rot.toNat) % 32 < 32 := Nat.mod_lt _ (by decide)
  simp [operand2, rotatedImm, getLsbD_rotateRight_mod _ _ h, hlt]

/-- Settles O24: the closed forms give each amount, and each operand form is one of the shifts or a rotated byte. -/
theorem shifterAtEveryAmount : Obligations.ShifterAtEveryAmount := by
  refine ⟨fun v n c => ?_, fun s rm rs rot imm8 k => ?_⟩
  · have hrrx := fun k (hk : k < 32) => shift_rrx_getLsbD v n c hk
    simp only [shift_lsl, shift_lsr, shift_asr, shift_ror, true_and]
    refine ⟨fun k hk => getLsbD_rotateRight_mod v n hk, fun k hk => ?_, hrrx 31 (by decide), rfl,
      fun h0 => by simp [h0], fun h1 h32 => ?_, fun h33 => ?_, fun h1 => if_neg (by omega)⟩
    · rw [hrrx k (by omega), if_neg (by omega)]
    · simp [show n ≠ 0 by omega, h32]
    · simp [show n ≠ 0 by omega, show ¬ n ≤ 32 by omega, BitVec.getLsbD_of_ge v (n - 1) (by omega),
        Nat.min_eq_right (show 31 ≤ n - 1 by omega)]
  · exact ⟨fun j hj => operand2_imm_getLsbD rot imm8 s hj, rfl, rfl, rfl, rfl, rfl,
      fun hk => ⟨operand2_immShift rm .lsr s hk, operand2_immShift rm .asr s hk, operand2_immShift rm .ror s hk⟩,
      operand2_regShift rm rs .lsl s, operand2_regShift rm rs .lsr s, operand2_regShift rm rs .asr s,
      operand2_regShift rm rs .ror s⟩

end Sys2Proof.Machine
end

section
/-! SUPPORT. `AddWithCarry` on numbers, of a sum and of a difference (41_alu_shifter.md R281). -/

namespace Sys2Proof.Machine

theorem bitWord_toNat (k : Bool) : (bitWord k).toNat = k.toNat := by cases k <;> rfl

theorem bitWord_toInt (k : Bool) : (bitWord k).toInt = k.toNat := by cases k <;> rfl

theorem addWithCarry_result (a b : Word) (k : Bool) : (addWithCarry a b k).result = a + b + bitWord k := by
  apply BitVec.eq_of_toNat_eq
  simp [addWithCarry, bitWord_toNat]

/-- The signed number of the result is the exact sum brought into range. -/
theorem addWithCarry_toInt (a b : Word) (k : Bool) :
    (addWithCarry a b k).result.toInt = (a.toInt + b.toInt + k.toNat).bmod (2 ^ 32) := by
  rw [addWithCarry_result, BitVec.toInt_add, BitVec.toInt_add, Int.bmod_add_bmod, bitWord_toInt]

theorem bmod_ne_self_iff (x : Int) : x.bmod (2 ^ 32) ≠ x ↔ x < -2 ^ 31 ∨ 2 ^ 31 ≤ x := by
  rw [ne_eq, Int.bmod_eq_iff (by decide)]
  omega

theorem toInt_complement (b : Word) : (~~~b).toInt = -b.toInt - 1 := by
  have hb := b.isLt
  simp only [BitVec.toInt_eq_toNat_cond, BitVec.toNat_not]
  omega

theorem add_complement (a b : Word) (k : Bool) : a + ~~~b + bitWord k = a - b - bitWord (!k) := by
  have hone : bitWord true = 1#32 := rfl
  have hzero : bitWord false = 0#32 := rfl
  rw [BitVec.not_eq_neg_add, BitVec.sub_eq_add_neg (-b), ← BitVec.add_assoc, ← BitVec.sub_eq_add_neg,
    ← BitVec.sub_eq_add_neg]
  cases k
  · rw [Bool.not_false, hone, hzero, BitVec.add_zero]
  · rw [Bool.not_true, hone, hzero, BitVec.sub_add_cancel, BitVec.sub_zero]

theorem addWithCarry_sum (a b : Word) (k : Bool) : addWithCarry a b k =
    { result := a + b + bitWord k, carry := 2 ^ 32 ≤ a.toNat + b.toNat + k.toNat,
      overflow := (a + b + bitWord k).toInt != a.toInt + b.toInt + k.toNat } := by
  rw [← addWithCarry_result]
  rfl

/-- The carry of a difference is "not borrow". -/
theorem addWithCarry_difference (a b : Word) (k : Bool) : addWithCarry a (~~~b) k =
    { result := a - b - bitWord (!k), carry := b.toNat + (!k).toNat ≤ a.toNat,
      overflow := (a - b - bitWord (!k)).toInt != a.toInt - b.toInt - (!k).toNat } := by
  have hb := b.isLt
  have hcarry : 2 ^ 32 ≤ a.toNat + (~~~b).toNat + k.toNat ↔ b.toNat + (!k).toNat ≤ a.toNat := by
    rw [BitVec.toNat_not]
    cases k <;> simp <;> omega
  have hsum : a.toInt + (~~~b).toInt + k.toNat = a.toInt - b.toInt - (!k).toNat := by
    rw [toInt_complement]
    cases k <;> simp <;> omega
  rw [addWithCarry_sum, add_complement, hsum, decide_eq_decide.mpr hcarry]

/-- Settles O25: overflow is the exact sum out of range, and a difference is a sum with the complement. -/
theorem addWithCarryOnNumbers : Obligations.AddWithCarryOnNumbers := by
  intro a b k
  have hov : (addWithCarry a b k).overflow = true ↔
      (addWithCarry a b k).result.toInt ≠ a.toInt + b.toInt + k.toNat := bne_iff_ne
  refine ⟨addWithCarry_result a b k, decide_eq_true_iff, ?_, hov, ?_, ?_⟩
  · rw [hov, addWithCarry_toInt, bmod_ne_self_iff]
  · rw [addWithCarry_difference]
  · rw [addWithCarry_difference, decide_eq_true_iff]

end Sys2Proof.Machine
end

section
/-! SUPPORT. A data-processing instruction that writes a register other than R15: its result, its flags, its frame
(41_alu_shifter.md R280 to R293, 43_data_processing.md R330, R331). -/

namespace Sys2Proof.Machine

theorem setAluFlags_psr (op : AluOp) (sf : Bool) (a : Word) (b : Word × Bool) (s : State) :
    (setAluFlags op sf a b s).cpsr = if sf then aluFlags op a b.1 b.2 s.cpsr else s.cpsr := by
  cases sf <;> rfl

theorem dataProcessing_effect (op : AluOp) (sf : Bool) (a : Word) {rd : Reg} (op2 : Operand2) (s : State)
    (hrd : rd ≠ 15) : ∃ t, dataProcessing op sf a rd op2 s = .next t ∧
      registerEffect s rd (aluResult op a (operand2 op2 s).1 s.cpsr.c)
        (if sf then aluFlags op a (operand2 op2 s).1 (operand2 op2 s).2 s.cpsr else s.cpsr) t := by
  simp only [dataProcessing, if_neg hrd, complete]
  refine ⟨_, rfl, fun q => ?_, ?_⟩
  · simpa using writeReg_get rd _ s q
  · simp [setAluFlags_psr, sameBytes, keepsSpecial, keepsPort]

/-- R290, R292: the flags of an arithmetic operation are those of its sum. -/
theorem aluFlags_of_sum {op : AluOp} {a b : Word} {p : Psr} {x : Sum} (sf shC : Bool) (h : aluSum op a b p.c = some x) :
    (if sf then aluFlags op a b shC p else p) = flagsOf sf x.result x.carry x.overflow p := by
  simp only [aluFlags, aluResult, h, flagsOf, BitVec.msb_eq_getLsbD_last]
  rfl

/-- R291: a logical operation takes C from the shifter and leaves V. -/
theorem aluFlags_of_logical {op : AluOp} {a b : Word} {p : Psr} (sf shC : Bool) (h : aluSum op a b p.c = none) :
    (if sf then aluFlags op a b shC p else p) = flagsOf sf (aluLogical op a b) shC p.v p := by
  simp only [aluFlags, aluResult, h, flagsOf, BitVec.msb_eq_getLsbD_last]
  rfl

section
variable {c : Cond} {why : Option Unpredictable} {op : AluOp} {sf : Bool} {rd : Reg} {op2 : Operand2} {i : Instr}
  {s : State} {a : State → Word}

/-- An arithmetic instruction writes its sum. -/
theorem completes_of_sum {x : Sum} (hp : condPassed c s.cpsr = true) (hw : why = none) (hrd : rd ≠ 15)
    (he : exec i s = conditional c why s fun s => dataProcessing op sf (a s) rd op2 s)
    (hx : aluSum op (a s) (operand2 op2 s).1 s.cpsr.c = some x) :
    completes i s (registerEffect s rd x.result (flagsOf sf x.result x.carry x.overflow s.cpsr)) := by
  obtain ⟨t, ht, hpost⟩ := dataProcessing_effect op sf (a s) op2 s hrd
  rw [aluFlags_of_sum sf _ hx, aluResult, hx] at hpost
  exact ⟨t, he.trans ((conditional_passed hw hp).trans ht), hpost⟩

/-- A logical instruction writes the operation of its operands. -/
theorem completes_of_logical {v : Word} (hp : condPassed c s.cpsr = true) (hw : why = none) (hrd : rd ≠ 15)
    (he : exec i s = conditional c why s fun s => dataProcessing op sf (a s) rd op2 s)
    (hx : aluSum op (a s) (operand2 op2 s).1 s.cpsr.c = none) (hv : aluLogical op (a s) (operand2 op2 s).1 = v) :
    completes i s (registerEffect s rd v (flagsOf sf v (operand2 op2 s).2 s.cpsr.v s.cpsr)) := by
  obtain ⟨t, ht, hpost⟩ := dataProcessing_effect op sf (a s) op2 s hrd
  rw [aluFlags_of_logical sf _ hx, aluResult, hx, hv] at hpost
  exact ⟨t, he.trans ((conditional_passed hw hp).trans ht), hpost⟩
end

/-- R280, R281: each arithmetic instruction is an operation of the ALU, whose sum is the one on numbers. -/
theorem arithForms_sum {c : Cond} {sf : Bool} {rn rd : Reg} {op : Operand2} {a b : Word} {k : Bool} {f : ArithForm}
    (h : f ∈ arithForms c sf rn rd op a b k) : ∃ o, aluSum o a b k = some ⟨f.result, f.carry, f.overflow⟩ ∧
      ∀ s, exec f.instr s = conditional c (restrictDp rn rd op) s fun s =>
        dataProcessing o sf (readReg s rn) rd op s := by
  simp only [arithForms, List.mem_cons, List.not_mem_nil, or_false] at h
  rcases h with rfl | rfl | rfl | rfl | rfl | rfl
  · exact ⟨.sub, by simp [aluSum, addWithCarry_difference, bitWord], fun _ => rfl⟩
  · exact ⟨.rsb, by simp [aluSum, addWithCarry_difference, bitWord], fun _ => rfl⟩
  · exact ⟨.add, by simp [aluSum, addWithCarry_sum, bitWord], fun _ => rfl⟩
  · exact ⟨.adc, by rw [aluSum, addWithCarry_sum], fun _ => rfl⟩
  · exact ⟨.sbc, by rw [aluSum, addWithCarry_difference], fun _ => rfl⟩
  · exact ⟨.rsc, by rw [aluSum, addWithCarry_difference], fun _ => rfl⟩

/-- Settles O26: each of the six writes its sum, which is the one on numbers. -/
theorem arithmeticResults : Obligations.ArithmeticResults := by
  intro c sf rn rd op s hp hw hrd f hf
  obtain ⟨o, hsum, hexec⟩ := arithForms_sum hf
  exact completes_of_sum hp hw hrd (hexec s) hsum

/-- R280: AND, EOR, ORR and BIC are the ALU's logical operations. -/
theorem logicForms_logical {c : Cond} {sf : Bool} {rn rd : Reg} {op : Operand2} {a b : Word} {f : Instr × Word}
    (h : f ∈ logicForms c sf rn rd op a b) : ∃ o, (∀ k, aluSum o a b k = none) ∧ aluLogical o a b = f.2 ∧
      ∀ s, exec f.1 s = conditional c (restrictDp rn rd op) s fun s =>
        dataProcessing o sf (readReg s rn) rd op s := by
  simp only [logicForms, List.mem_cons, List.not_mem_nil, or_false] at h
  rcases h with rfl | rfl | rfl | rfl
  · exact ⟨.and, fun _ => rfl, rfl, fun _ => rfl⟩
  · exact ⟨.eor, fun _ => rfl, rfl, fun _ => rfl⟩
  · exact ⟨.orr, fun _ => rfl, rfl, fun _ => rfl⟩
  · exact ⟨.bic, fun _ => rfl, rfl, fun _ => rfl⟩

/-- R280: MOV and MVN are logical operations that do not look at a first operand. -/
theorem moveForms_logical {c : Cond} {sf : Bool} {rd : Reg} {op : Operand2} {b : Word} {f : Instr × Word}
    (h : f ∈ moveForms c sf rd op b) : ∃ o, (∀ k, aluSum o 0 b k = none) ∧ aluLogical o 0 b = f.2 ∧
      ∀ s, exec f.1 s = conditional c (restrictDpSbz 0 rd op) s fun s => dataProcessing o sf 0 rd op s := by
  simp only [moveForms, List.mem_cons, List.not_mem_nil, or_false] at h
  rcases h with rfl | rfl
  · exact ⟨.mov, fun _ => rfl, rfl, fun _ => rfl⟩
  · exact ⟨.mvn, fun _ => rfl, rfl, fun _ => rfl⟩

/-- Settles O27: each of the six writes its operation, with the shifter's carry. -/
theorem logicalResults : Obligations.LogicalResults := by
  intro c sf rn rd op s hp hrd
  refine ⟨fun hw f hf => ?_, fun hw f hf => ?_⟩
  · obtain ⟨o, hsum, hv, hexec⟩ := logicForms_logical hf
    exact completes_of_logical hp hw hrd (hexec s) (hsum _) hv
  · obtain ⟨o, hsum, hv, hexec⟩ := moveForms_logical hf
    exact completes_of_logical (a := fun _ => 0) hp hw hrd (hexec s) (hsum _) hv

end Sys2Proof.Machine
end

section
/-! SUPPORT. An SWI with a callback: what its list of writes does to memory (42_branch_swi.md R317), and the instruction
around it (R318, 70_reset_and_hazards.md R620). -/

namespace Sys2Proof.Machine

theorem applyWrites_append (limit : Nat) (m : Memory) (pre post : List Host.Cell) :
    applyWrites limit m (pre ++ post) = applyWrites limit (applyWrites limit m pre) post := by
  induction pre generalizing m with
  | nil => rfl
  | cons y rest ih => exact ih _

/-- The writes outside external memory, which `applyWrites` passes over, may as well be left out. -/
theorem applyWrites_callbackWrites (cfg : Config) (m : Memory) (a : SwiAnswer) :
    applyWrites cfg.memLimit m (callbackWrites cfg a) = applyWrites cfg.memLimit m a.writes := by
  unfold callbackWrites
  induction a.writes generalizing m with
  | nil => rfl
  | cons y rest ih =>
    by_cases hy : y.1 < cfg.memLimit <;> simp [hy, applyWrites, ih]

/-- A byte that is at no address of the list, or outside external memory, reads as before. -/
theorem readByte_applyWrites_other {limit x : Nat} (m : Memory) {l : List Host.Cell}
    (h : ∀ y ∈ l, x < limit → y.1 ≠ x) : readByte (applyWrites limit m l) x = readByte m x := by
  induction l generalizing m with
  | nil => rfl
  | cons y rest ih =>
    rw [applyWrites, ih _ fun z hz => h z (List.mem_cons_of_mem y hz)]
    by_cases hy : y.1 < limit
    · have hne : y.1 ≠ x := fun e => h y List.mem_cons_self (e ▸ hy) e
      rw [if_pos hy, readByte_writeByte_other m hne]
    · rw [if_neg hy]

/-- A byte holds the last value written to it. -/
theorem readByte_applyWrites_last {limit x : Nat} {m : Memory} (hm : Memory.wf m) (pre : List Host.Cell) (v : Byte)
    {post : List Host.Cell} (hx : x < limit) (h : ∀ y ∈ post, y.1 ≠ x) :
    readByte (applyWrites limit m (pre ++ (x, v) :: post)) x = v := by
  rw [applyWrites_append, applyWrites, if_pos hx, readByte_applyWrites_other _ fun y hy _ => h y hy]
  exact readByte_writeByte_same (applyWrites_wf hm limit pre) x v

/-- A prefetch changes nothing a callback looks at. -/
theorem nextCallback_prefetch (key : Nat) (s : State) : (nextCallback key (prefetch s)).1 = (nextCallback key s).1 := by
  unfold nextCallback
  simp only [prefetch_swiAnswers, readReg_prefetch, prefetch_mem]
  split <;> rfl

/-- R620: some byte of external memory in the prefetch window is written. -/
theorem callbackWrites_inWindow (cfg : Config) (cur : Word) (a : SwiAnswer) :
    (callbackWrites cfg a).any (fun y => inPrefetchWindow cur y.1) = true ↔
      ∃ y ∈ a.writes, y.1 < cfg.memLimit ∧ inPrefetchWindow cur y.1 = true := by
  simp [callbackWrites]

/-- R318: an SWI with a callback is a prefetch, the hook and the advance of the pc. -/
theorem exec_swi_registered {c : Cond} {comment : BitVec 24} {s : State} (hp : condPassed c s.cpsr = true)
    (hr : swiRegistered s.cfg (swiKey comment) = true) :
    exec (.swi c comment) s = andThen (swiHook s.pc (swiKey comment) (prefetch s)) complete := by
  change execSwi c comment s = _
  rw [execSwi, conditional_passed rfl hp, if_pos hr]

section
variable {cur : Word} {key : Nat} {s : State}

/-- R620: a write into the window stops. -/
theorem swiHook_fault
    (h : ∃ y ∈ (nextCallback key s).1.writes, y.1 < s.cfg.memLimit ∧ inPrefetchWindow cur y.1 = true) :
    swiHook cur key s = .fault .prefetchWindow :=
  if_pos ((callbackWrites_inWindow s.cfg cur _).mpr h)

/-- R317, R318: with no write into the window the hook writes memory, the flush request and R0. -/
theorem swiHook_next
    (h : ∀ y ∈ (nextCallback key s).1.writes, y.1 < s.cfg.memLimit → inPrefetchWindow cur y.1 = false) :
    swiHook cur key s = .next (writeReg 0 (nextCallback key s).1.result
      { (nextCallback key s).2 with
        mem := applyWrites s.cfg.memLimit s.mem (nextCallback key s).1.writes, flushRequest := true }) := by
  have hout : ¬ (callbackWrites s.cfg (nextCallback key s).1).any (fun y => inPrefetchWindow cur y.1) = true := by
    rw [callbackWrites_inWindow]
    rintro ⟨y, hy, hlt, hin⟩
    exact Bool.false_ne_true ((h y hy hlt).symm.trans hin)
  rw [← applyWrites_callbackWrites]
  exact if_neg hout
end

/-- Settles O14: the callback sees the registers and the memory of before the prefetch; the hook stops at a write into the
window, and else writes R0, memory and the flush request alone. -/
theorem swiWithCallback : Obligations.SwiWithCallback := by
  intro c comment s hp hr a
  have hexec := exec_swi_registered hp hr
  have ha : (nextCallback (swiKey comment) (prefetch s)).1 = a := nextCallback_prefetch _ s
  refine ⟨fun hin => ?_, fun hout => ?_⟩
  · rw [hexec, swiHook_fault (by simpa [ha] using hin), andThen_fault]
  · rw [swiHook_next (by simpa [ha] using hout), andThen_next, ha] at hexec
    refine ⟨_, hexec, fun q => ?_, by simp, by simp, by simp, by simp [keepsSpecial], by simp [keepsPort],
      fun x hx => ?_, fun pre x v post hw hlt hpost hm => ?_⟩
    · simpa using writeReg_get 0 a.result _ q
    · simpa using readByte_applyWrites_other s.mem hx
    · simpa [hw] using readByte_applyWrites_last hm pre v hlt hpost

end Sys2Proof.Machine
end

section
/-! SUPPORT. The target of a branch, and B and BL as jumps (42_branch_swi.md R310 to R312). -/

namespace Sys2Proof.Machine

/-- The offset's two zero bits multiply its signed number by 4. -/
theorem branchTarget_eq (cur : Word) (imm24 : BitVec 24) :
    branchTarget cur imm24 = cur + 8 + BitVec.ofInt 32 (4 * imm24.toInt) := by
  have hoff : (imm24 ++ 0b00#2).toInt = 4 * imm24.toInt := BitVec.toInt_append_zero
  rw [branchTarget, BitVec.signExtend, hoff]

section
variable {c : Cond} {imm24 : BitVec 24} {s : State}

theorem exec_b (hp : condPassed c s.cpsr = true) : exec (.b c imm24) s = .next (jump (branchTarget s.pc imm24) s) := by
  change execB c imm24 s = _
  rw [execB, conditional_passed rfl hp]

theorem exec_bl (hp : condPassed c s.cpsr = true) :
    exec (.bl c imm24) s = .next (jump (branchTarget s.pc imm24) (writeReg 14 (s.pc + 4) s)) := by
  change execBl c imm24 s = _
  rw [execBl, conditional_passed rfl hp]
end

/-- Settles O30: B is a jump to the target, BL a jump after the write of the link register. -/
theorem branchTargets : Obligations.BranchTargets := by
  intro c imm24 s hp
  rw [← branchTarget_eq]
  refine ⟨⟨_, exec_b hp, jump_pc _ _, ?_⟩, _, exec_bl hp, jump_pc _ _, fun q => ?_, ?_⟩
  · simp [sameBytes, keepsSpecial, keepsPort]
  · simpa using writeReg_get 14 (s.pc + 4) s q
  · simp [sameBytes, keepsSpecial, keepsPort]

end Sys2Proof.Machine
end

section
/-! SUPPORT. The compares (43_data_processing.md R335, R348, R349, R351, R352): the flags of an operation and its frame. -/

namespace Sys2Proof.Machine

/-- An instruction that writes the CPSR and advances: everything it does. -/
abbrev flagsEffect (s : State) (p : Psr) (t : State) : Prop :=
  t.regs = s.regs ∧ t.cpsr = p ∧ t.pc = s.pc + 4 ∧ sameBytes s t ∧ keepsSpecial s t ∧ keepsPort s t

theorem compareOp_effect (op : AluOp) (rn : Reg) (op2 : Operand2) (s : State) :
    ∃ t, compareOp op rn op2 s = .next t ∧
      flagsEffect s (aluFlags op (readReg s rn) (operand2 op2 s).1 (operand2 op2 s).2 s.cpsr) t :=
  ⟨_, rfl, by simp [flagsEffect, setAluFlags_psr, sameBytes, keepsSpecial, keepsPort]⟩

section
variable {c : Cond} {why : Option Unpredictable} {op : AluOp} {rn : Reg} {op2 : Operand2} {i : Instr} {s : State}
  (hp : condPassed c s.cpsr = true) (hw : why = none) (he : exec i s = conditional c why s (compareOp op rn op2))
include hp hw he

theorem completes_of_compare :
    completes i s (flagsEffect s (aluFlags op (readReg s rn) (operand2 op2 s).1 (operand2 op2 s).2 s.cpsr)) := by
  obtain ⟨t, ht, hpost⟩ := compareOp_effect op rn op2 s
  exact ⟨t, he.trans ((conditional_passed hw hp).trans ht), hpost⟩

/-- An arithmetic compare writes the flags of its sum. -/
theorem completes_of_compareSum {v : Word} {carry overflow : Bool}
    (hx : aluSum op (readReg s rn) (operand2 op2 s).1 s.cpsr.c = some ⟨v, carry, overflow⟩) :
    completes i s (flagsEffect s (flagsOf true v carry overflow s.cpsr)) := by
  rw [← aluFlags_of_sum true (operand2 op2 s).2 hx]
  exact completes_of_compare hp hw he

/-- A logical compare writes the flags of its operation, with the shifter's carry and V as before. -/
theorem completes_of_compareLogical (hx : aluSum op (readReg s rn) (operand2 op2 s).1 s.cpsr.c = none) :
    completes i s (flagsEffect s
      (flagsOf true (aluLogical op (readReg s rn) (operand2 op2 s).1) (operand2 op2 s).2 s.cpsr.v s.cpsr)) := by
  rw [← aluFlags_of_logical true (operand2 op2 s).2 hx]
  exact completes_of_compare hp hw he
end

/-- R280, R281: CMP is a difference on numbers. -/
theorem aluSum_cmp (a b : Word) (k : Bool) : aluSum .cmp a b k = some
    { result := a - b, carry := b.toNat ≤ a.toNat, overflow := (a - b).toInt != a.toInt - b.toInt } := by
  simp [aluSum, addWithCarry_difference, bitWord]

/-- R280, R281: CMN is a sum on numbers. -/
theorem aluSum_cmn (a b : Word) (k : Bool) : aluSum .cmn a b k = some
    { result := a + b, carry := 2 ^ 32 ≤ a.toNat + b.toNat, overflow := (a + b).toInt != a.toInt + b.toInt } := by
  simp [aluSum, addWithCarry_sum, bitWord]

/-- Settles O28: TST and TEQ are logical operations, CMP and CMN are sums, which are the ones on numbers. -/
theorem compareResults : Obligations.CompareResults := by
  intro c rn op s hp hw
  refine ⟨?_, ?_, ?_, ?_⟩
  · exact completes_of_compareLogical (op := .tst) hp hw rfl rfl
  · exact completes_of_compareLogical (op := .teq) hp hw rfl rfl
  · exact completes_of_compareSum hp hw rfl (aluSum_cmp ..)
  · exact completes_of_compareSum hp hw rfl (aluSum_cmn ..)

end Sys2Proof.Machine
end

section
/-! SUPPORT. A data-processing instruction that writes R15 (43_data_processing.md R332, R334): the checked control transfer,
with or without the CPSR restored. -/

namespace Sys2Proof.Machine

/-- A restore writes the CPSR alone (10_state.md R56). -/
theorem restoreCpsr_frame {s u : State} (h : restoreCpsr s = .next u) : u = { s with cpsr := u.cpsr } := by
  cases hv : readSpsr s with
  | none => simp [restoreCpsr, hv] at h
  | some v =>
    rw [restoreCpsr_of_readSpsr hv] at h
    obtain ⟨m, -, hu⟩ := andThen_eq_next.mp h
    cases hu
    rfl

/-- A control transfer with the CPSR written: everything it does. -/
abbrev transferEffect (s : State) (a : Word) (p : Psr) (t : State) : Prop :=
  t.pc = a ∧ t.cpsr = p ∧ t.regs = s.regs ∧ sameBytes s t ∧ keepsSpecial s t ∧ keepsPort s t

theorem jump_effect (a : Word) (p : Psr) (s : State) : transferEffect s a p (jump a { s with cpsr := p }) := by
  simp [transferEffect, sameBytes, keepsSpecial, keepsPort]

section
variable {a : Word} {s : State}

theorem writePc_unaligned (sf : Bool) (h : a.toNat % 4 ≠ 0) : writePc a sf s = .fault .unalignedPc :=
  if_pos (mt lowBits_eq_zero.mp h)

/-- Past the alignment check the S bit decides. -/
theorem writePc_aligned (sf : Bool) (h : a.toNat % 4 = 0) : writePc a sf s =
    if sf then andThen (restoreCpsr s) fun u => .next (jump a u) else .next (jump a s) :=
  if_neg (not_not_intro (lowBits_eq_zero.mpr h))

theorem writePc_plain (h : a.toNat % 4 = 0) : ∃ t, writePc a false s = .next t ∧ transferEffect s a s.cpsr t :=
  ⟨_, writePc_aligned false h, jump_effect a s.cpsr s⟩

theorem writePc_restoreStops {e : Fault} (h : a.toNat % 4 = 0) (hr : restoreCpsr s = .fault e) :
    writePc a true s = .fault e := by
  rw [writePc_aligned true h, if_pos rfl, hr, andThen_fault]

theorem writePc_restores {u : State} (h : a.toNat % 4 = 0) (hr : restoreCpsr s = .next u) :
    ∃ t, writePc a true s = .next t ∧ transferEffect s a u.cpsr t := by
  refine ⟨jump a u, by rw [writePc_aligned true h, if_pos rfl, hr, andThen_next], ?_⟩
  rw [restoreCpsr_frame hr]
  exact jump_effect a u.cpsr s
end

/-- Without a register-specified shift R15 may stand anywhere (R333). -/
theorem restrictOperand2_eq_none {op : Operand2} (regs : List Reg) (h : isRegShift op = false) :
    restrictOperand2 regs op = none := by
  cases op with
  | imm => rfl
  | immShift => rfl
  | regShift => cases h

/-- R280, R330: each instruction that writes a register is the ALU operation of its result. -/
theorem writingForms_operation {c : Cond} {sf : Bool} {rn rd : Reg} {op : Operand2} {s : State} {f : Instr × Word}
    (hp : condPassed c s.cpsr = true) (hop : isRegShift op = false) (h : f ∈ writingForms c sf rn rd op s) :
    ∃ o a, aluResult o a (operand2 op s).1 s.cpsr.c = f.2 ∧ exec f.1 s = dataProcessing o sf a rd op s := by
  have hw : restrictDp rn rd op = none := restrictOperand2_eq_none _ hop
  have hwm : restrictDpSbz 0 rd op = none := restrictOperand2_eq_none _ hop
  simp only [writingForms, List.mem_append, List.mem_map] at h
  rcases h with (⟨g, hg, rfl⟩ | hf) | hf
  · obtain ⟨o, hsum, hexec⟩ := arithForms_sum hg
    exact ⟨o, _, by rw [aluResult, hsum], (hexec s).trans (conditional_passed hw hp)⟩
  · obtain ⟨o, hsum, hv, hexec⟩ := logicForms_logical hf
    exact ⟨o, _, by rw [aluResult, hsum, hv], (hexec s).trans (conditional_passed hw hp)⟩
  · obtain ⟨o, hsum, hv, hexec⟩ := moveForms_logical hf
    exact ⟨o, _, by rw [aluResult, hsum, hv], (hexec s).trans (conditional_passed hwm hp)⟩

/-- R332: with R15 as the destination the instruction is `WritePC` of its result. -/
theorem writingForms_writePc {c : Cond} {sf : Bool} {rn : Reg} {op : Operand2} {s : State} {f : Instr × Word}
    (hp : condPassed c s.cpsr = true) (hop : isRegShift op = false) (h : f ∈ writingForms c sf rn 15 op s) :
    exec f.1 s = writePc f.2 sf s := by
  obtain ⟨o, a, hv, hexec⟩ := writingForms_operation hp hop h
  rw [hexec, dataProcessing, if_pos rfl, hv]

/-- Settles O29: each of the twelve is `WritePC` of its result, which checks the alignment, then restores the CPSR or
not. -/
theorem dataProcessingWritesPc : Obligations.DataProcessingWritesPc := by
  intro c sf rn op s hp hop f hf
  simp only [completes, writingForms_writePc hp hop hf]
  refine ⟨writePc_unaligned sf, ?_, ?_⟩
  · rintro ha rfl
    exact writePc_plain ha
  · rintro ha rfl
    exact ⟨fun _ => writePc_restoreStops ha, fun _ => writePc_restores ha⟩

end Sys2Proof.Machine
end

section
/-! SUPPORT. The carry-save adder (44_multiply.md R370, R371) as two half adders, at every width. -/

namespace Sys2Proof.Machine

/-- The half adder: the sum bits and twice the carries are the sum. -/
theorem xor_add_two_mul_and (x y : Nat) : (x ^^^ y) + 2 * (x &&& y) = x + y := by
  induction x using Nat.strongRecOn generalizing y with
  | ind x ih =>
    rcases Nat.eq_zero_or_pos x with rfl | hx
    · simp
    · have hrest := ih (x / 2) (by omega) (y / 2)
      rw [← Nat.xor_div_two, ← Nat.and_div_two] at hrest
      have hxor := Nat.xor_mod_two_eq_one (a := x) (b := y)
      have hand := Nat.and_mod_two_eq_one (a := x) (b := y)
      omega

/-- The two half adders of a carry-save adder never carry out of the same bit, so an OR joins their carries (R370). -/
theorem carrySave_toNat {w : Nat} (a b c : BitVec w) :
    (a ^^^ b ^^^ c).toNat + 2 * ((b &&& ~~~(a ^^^ b)) ||| (c &&& (a ^^^ b))).toNat = a.toNat + b.toNat + c.toNat := by
  have hfirst : b &&& ~~~(a ^^^ b) = a &&& b := by
    ext i hi
    cases ha : a[i] <;> simp [ha]
  have happart : (a &&& b) &&& ((a ^^^ b) &&& c) = 0#w := by
    ext i hi
    cases ha : a[i] <;> cases hb : b[i] <;> simp [ha, hb]
  have hab := xor_add_two_mul_and a.toNat b.toNat
  have hsum := xor_add_two_mul_and (a ^^^ b).toNat c.toNat
  rw [hfirst, BitVec.and_comm c, ← BitVec.add_eq_or_of_and_eq_zero _ _ happart,
    BitVec.toNat_add_of_and_eq_zero happart]
  simp only [BitVec.toNat_xor, BitVec.toNat_and] at hab hsum ⊢
  omega

/-- Settles O31: the carry bit by bit, the sum as two half adders. -/
theorem carrySaveAdder : Obligations.CarrySaveAdder := by
  intro a b cin
  refine ⟨fun k => ?_, (carrySave_toNat a b cin).symm⟩
  rcases Nat.lt_or_ge k 32 with hk | hk
  · simp only [carrySaveAdd32, BitVec.getLsbD_or, BitVec.getLsbD_and, BitVec.getLsbD_not, BitVec.getLsbD_xor, hk,
      decide_true]
    cases a.getLsbD k <;> cases b.getLsbD k <;> simp
  · simp [hk]

/-- R372: in 64 bits the carry, shifted into place, and the sum are the sum of the three. -/
theorem carrySaveAdd64_sum (a b c : DWord) :
    (carrySaveAdd64 a b c).1 + (carrySaveAdd64 a b c).2 <<< 1 = a + b + c := by
  have h := carrySave_toNat a b c
  apply BitVec.eq_of_toNat_eq
  simp only [carrySaveAdd64, BitVec.toNat_add, BitVec.toNat_shiftLeft, Nat.shiftLeft_eq]
  omega

/-- R372: a 1 injected into the carry's free bit makes the complement a subtraction. -/
theorem carrySaveAdd64_not (a b x : DWord) :
    (carrySaveAdd64 a b (~~~x)).1 + ((carrySaveAdd64 a b (~~~x)).2 <<< 1 ||| 1) = a + b - x := by
  have hfree : (carrySaveAdd64 a b (~~~x)).2 <<< 1 &&& 1 = 0 := by
    ext i hi
    rcases Nat.eq_zero_or_pos i with rfl | hpos
    · simp
    · simp [Nat.ne_of_gt hpos]
  rw [← BitVec.add_eq_or_of_and_eq_zero _ _ hfree, ← BitVec.add_assoc, carrySaveAdd64_sum, BitVec.add_assoc,
    BitVec.sub_eq_add_neg, BitVec.neg_eq_not_add]
  rfl

end Sys2Proof.Machine
end

section
/-! SUPPORT. The Booth engine (44_multiply.md R372 to R380): a step takes one digit off the multiplier and adds that
digit's multiple of the multiplicand, so the product is kept; after sixteen or seventeen digits none is left. -/

namespace Sys2Proof.Machine

/-- An operand as a number: `sint` for a signed multiply, else `uint`. -/
def operandValue (signed : Bool) (x : Word) : Int := if signed then x.toInt else x.toNat

@[simp] theorem operandValue_unsigned (x : Word) : operandValue false x = x.toNat := rfl
@[simp] theorem operandValue_signed (x : Word) : operandValue true x = x.toInt := rfl

/-- What of the multiplier is still to be recoded: the shift register and the running carry. -/
def boothRest (m : MulUnit) : Int := operandValue m.signed m.mr + m.bc.toNat

/-- The radix-4 digit of a Booth case (R372). -/
def boothDigit (bc : Bool) (m2 : BitVec 2) : Int := bc.toNat + m2.toNat - 4 * (m2.getLsbD 1).toNat

/-- The multiple of the multiplicand that a Booth action adds to the accumulators. -/
def boothMultiple : BoothAction → Int
  | .none => 0
  | .plus sh => 2 ^ sh
  | .minus sh => -2 ^ sh

/-- The product as a step of the engine leaves it: the accumulators and the digits still to come. -/
def boothProduct (m : MulUnit) : DWord := m.sum + m.carry + m.md * BitVec.ofInt 64 (4 ^ m.k * boothRest m)

/-! Operands -/

theorem operandValue_emod_four (signed : Bool) (x : Word) :
    operandValue signed x % 4 = (x.extractLsb' 0 2).toNat := by
  have hint := BitVec.toInt_eq_toNat_cond x
  have hlow : (x.extractLsb' 0 2).toNat = x.toNat % 4 := by simp
  cases signed <;> simp only [operandValue_unsigned, operandValue_signed, hlow] <;> omega

theorem operandValue_eq_zero {signed : Bool} {x : Word} : operandValue signed x = 0 ↔ x = 0 := by
  cases signed with
  | false => simp [← BitVec.toNat_inj]
  | true => simp [← BitVec.toInt_inj]

theorem operandValue_eq_neg_one {signed : Bool} {x : Word} :
    operandValue signed x = -1 ↔ signed = true ∧ x = 0xFFFFFFFF#32 := by
  cases signed with
  | false => simp only [operandValue_unsigned, Bool.false_eq_true, false_and, iff_false]; omega
  | true => simp [← BitVec.toInt_inj]

/-- R376: the multiplier shifted right twice, with sign fill for a signed one. -/
theorem operandValue_shift (signed : Bool) (x : Word) :
    operandValue signed (if signed then x.sshiftRight 2 else x >>> 2) = operandValue signed x / 4 := by
  cases signed with
  | false => simp [Nat.shiftRight_eq_div_pow]
  | true => simp [BitVec.toInt_sshiftRight, Int.shiftRight_eq_div_pow]

/-! The stage -/

/-- The accumulators read what was written to them. -/
theorem withAcc_acc (m : MulUnit) (s c : DWord) : (m.withAcc s c).sum + (m.withAcc s c).carry = s + c :=
  congr (congrArg HAdd.hAdd (BitVec.extractLsb'_append_extractLsb' (w := 32) (len := 32)))
    (BitVec.extractLsb'_append_extractLsb' (w := 32) (len := 32))

theorem shiftLeft_eq_mul_ofInt (x : DWord) (n : Nat) : x <<< n = x * BitVec.ofInt 64 (2 ^ n) := by
  have hpow : (2 : Int) ^ n = ((2 ^ n : Nat) : Int) := by norm_cast
  rw [BitVec.shiftLeft_eq_mul_twoPow, hpow, BitVec.ofInt_natCast]
  exact congrArg _ (BitVec.eq_of_toNat_eq (by simp))

/-- R372: a stage adds its action's multiple of the multiplicand to the carry-save pair. -/
theorem boothStage_acc (m : MulUnit) : (boothStage m).sum + (boothStage m).carry = m.sum + m.carry +
    m.md * BitVec.ofInt 64 (boothMultiple (boothAction m.bc (m.mr.extractLsb' 0 2) m.k)) := by
  cases h : boothAction m.bc (m.mr.extractLsb' 0 2) m.k with
  | none =>
    simp only [boothStage, h, boothMultiple]
    exact (BitVec.add_zero (m.sum + m.carry)).symm
  | plus sh =>
    rw [boothMultiple, ← shiftLeft_eq_mul_ofInt, ← carrySaveAdd64_sum]
    simp only [boothStage, h]
    exact withAcc_acc m _ _
  | minus sh =>
    rw [boothMultiple, BitVec.ofInt_neg, BitVec.mul_neg, ← shiftLeft_eq_mul_ofInt, ← BitVec.sub_eq_add_neg,
      ← carrySaveAdd64_not]
    simp only [boothStage, h]
    exact withAcc_acc m _ _

/-- A stage keeps the multiplicand and the kind of the multiply. -/
theorem boothStage_frame (m : MulUnit) : (boothStage m).md = m.md ∧ (boothStage m).signed = m.signed := by
  unfold boothStage
  dsimp only
  split <;> exact ⟨rfl, rfl⟩

/-- R372: the eight cases are the multiples by the digits -2 to 2, at digit `k`'s weight. -/
theorem boothMultiple_boothAction (bc : Bool) (m2 : BitVec 2) (k : Nat) :
    boothMultiple (boothAction bc m2 k) = 4 ^ k * boothDigit bc m2 := by
  have hone : (2 : Int) ^ (2 * k) = 4 ^ k * 1 := by rw [Int.pow_mul, Int.mul_one]; rfl
  have htwo : (2 : Int) ^ (2 * k + 1) = 4 ^ k * 2 := by rw [Int.pow_succ, hone, Int.mul_one]
  have hminusOne : -(2 : Int) ^ (2 * k) = 4 ^ k * -1 := by rw [hone, Int.mul_neg]
  have hminusTwo : -(2 : Int) ^ (2 * k + 1) = 4 ^ k * -2 := by rw [htwo, Int.mul_neg]
  have hm2 : m2 = 0 ∨ m2 = 1 ∨ m2 = 2 ∨ m2 = 3 := by revert m2; decide
  cases bc with
  | false =>
    rcases hm2 with rfl | rfl | rfl | rfl
    · exact (Int.mul_zero _).symm
    · exact hone
    · exact hminusTwo
    · exact hminusOne
  | true =>
    rcases hm2 with rfl | rfl | rfl | rfl
    · exact hone
    · exact htwo
    · exact hminusOne
    · exact (Int.mul_zero _).symm

theorem boothDigit_bounds (bc : Bool) (m2 : BitVec 2) :
    bc.toNat - 2 ≤ boothDigit bc m2 ∧ boothDigit bc m2 ≤ bc.toNat + 1 := by
  revert m2
  cases bc <;> decide

/-! The step -/

@[simp] theorem boothStep_md (m : MulUnit) : (boothStep m).md = m.md := (boothStage_frame m).1
@[simp] theorem boothStep_signed (m : MulUnit) : (boothStep m).signed = m.signed := (boothStage_frame m).2
@[simp] theorem boothStep_k (m : MulUnit) : (boothStep m).k = m.k + 1 := rfl
@[simp] theorem boothStep_bc (m : MulUnit) : (boothStep m).bc = (m.mr.extractLsb' 0 2).getLsbD 1 := rfl

theorem boothStep_mr (m : MulUnit) :
    operandValue m.signed (boothStep m).mr = operandValue m.signed m.mr / 4 :=
  operandValue_shift m.signed m.mr

/-- R376: a step takes the lowest digit off what is left. -/
theorem boothRest_boothStep (m : MulUnit) :
    boothRest m = 4 * boothRest (boothStep m) + boothDigit m.bc (m.mr.extractLsb' 0 2) := by
  have hlow := operandValue_emod_four m.signed m.mr
  simp only [boothRest, boothStep_signed, boothStep_mr, boothStep_bc, boothDigit]
  omega

theorem boothProduct_boothStep (m : MulUnit) : boothProduct (boothStep m) = boothProduct m := by
  have hacc : (boothStep m).sum + (boothStep m).carry = _ := boothStage_acc m
  have hweight : (4 : Int) ^ m.k * boothRest m =
      4 ^ m.k * boothDigit m.bc (m.mr.extractLsb' 0 2) + 4 ^ (m.k + 1) * boothRest (boothStep m) := by
    rw [boothRest_boothStep m, Int.pow_succ, Int.mul_assoc, Int.mul_add, Int.add_comm]
  rw [boothProduct, hacc, boothStep_md, boothStep_k, boothMultiple_boothAction, boothProduct, hweight, BitVec.ofInt_add,
    BitVec.mul_add, BitVec.add_assoc]

/-! The loop -/

/-- `n` steps of the engine. -/
def boothSteps : Nat → MulUnit → MulUnit
  | 0, m => m
  | n + 1, m => boothSteps n (boothStep m)

/-- R376: an execution is four steps. -/
theorem boothSteps_add_four (n : Nat) (m : MulUnit) : boothSteps (n + 4) m = boothSteps n (fourStageBooth m) := rfl

theorem boothProduct_boothLoop (fuel : Nat) (m : MulUnit) : boothProduct (boothLoop fuel m).1 = boothProduct m := by
  induction fuel generalizing m with
  | zero => rfl
  | succ fuel ih =>
    have hfour : boothProduct (fourStageBooth m) = boothProduct m := by
      simp only [fourStageBooth, boothProduct_boothStep]
    rw [boothLoop]
    split
    · exact hfour
    · exact (ih _).trans hfour

/-- R379: done is nothing left to recode. -/
theorem boothDone_iff (m : MulUnit) : boothDone m = true ↔ boothRest m = 0 := by
  cases hbc : m.bc with
  | false => simp [boothDone, boothRest, hbc, operandValue_eq_zero]
  | true =>
    have hneg : boothRest m = 0 ↔ operandValue m.signed m.mr = -1 := by
      rw [boothRest, hbc, Bool.toNat_true]
      omega
    rw [hneg, operandValue_eq_neg_one]
    simp [boothDone, hbc]

/-- A multiplier of -2, -1, 0 or 1 is one digit. -/
theorem boothDone_boothStep {m : MulUnit} (hlo : -2 ≤ operandValue m.signed m.mr)
    (hhi : operandValue m.signed m.mr ≤ 1) : boothDone (boothStep m) = true := by
  have hrest := boothRest_boothStep m
  have hdigit := boothDigit_bounds m.bc (m.mr.extractLsb' 0 2)
  rw [boothDone_iff]
  rw [boothRest] at hrest
  omega

/-- The step after the multiplier has been shifted down to one digit is the last. -/
theorem boothDone_boothSteps {n : Nat} {m : MulUnit} (hlo : -2 ≤ operandValue m.signed m.mr / 4 ^ n)
    (hhi : operandValue m.signed m.mr / 4 ^ n ≤ 1) : boothDone (boothSteps (n + 1) m) = true := by
  induction n generalizing m with
  | zero =>
    rw [Int.pow_zero, Int.ediv_one] at hlo hhi
    exact boothDone_boothStep hlo hhi
  | succ n ih =>
    have hshift : operandValue m.signed m.mr / 4 ^ (n + 1) =
        operandValue (boothStep m).signed (boothStep m).mr / 4 ^ n := by
      rw [boothStep_signed, boothStep_mr, Int.ediv_ediv_of_nonneg (by decide), Int.pow_succ, Int.mul_comm]
    rw [hshift] at hlo hhi
    exact ih hlo hhi

/-- R379: the loop ends no later than the first execution known to be done. -/
theorem boothLoop_done {fuel j : Nat} {m : MulUnit} (hj : j < fuel) (hd : boothDone (boothSteps (4 * j + 4) m) = true) :
    boothDone (boothLoop fuel m).1 = true ∧ 1 ≤ (boothLoop fuel m).2 ∧ (boothLoop fuel m).2 ≤ j + 1 := by
  induction fuel generalizing j m with
  | zero => omega
  | succ fuel ih =>
    rw [boothSteps_add_four] at hd
    rw [boothLoop]
    split
    · next h => exact ⟨h, Nat.le_refl 1, Nat.le_add_left ..⟩
    · next h =>
      cases j with
      | zero => exact absurd hd h
      | succ j =>
        obtain ⟨hdone, -, hle⟩ := ih (Nat.lt_of_succ_lt_succ hj) hd
        exact ⟨hdone, Nat.le_add_left .., Nat.succ_le_succ hle⟩

/-! A whole multiply -/

theorem boothRest_boothInit (signed : Bool) (rm rs : Word) :
    boothRest (boothInit signed rm rs) = operandValue signed rs :=
  Int.add_zero _

/-- R379: four executions, sixteen digits, are enough for a signed multiplier, five for an unsigned one. -/
theorem boothLoop_boothInit_done (signed : Bool) (rm rs : Word) :
    boothDone (boothLoop 5 (boothInit signed rm rs)).1 = true ∧ 1 ≤ (boothLoop 5 (boothInit signed rm rs)).2 ∧
    (boothLoop 5 (boothInit signed rm rs)).2 ≤ if signed then 4 else 5 := by
  cases signed with
  | false =>
    have hlo : 0 ≤ operandValue false rs := Int.natCast_nonneg _
    have hhi : operandValue false rs < 2 ^ 32 := Int.ofNat_lt.mpr rs.isLt
    have hdigit : -2 ≤ operandValue false rs / 4 ^ 19 ∧ operandValue false rs / 4 ^ 19 ≤ 1 := by omega
    exact boothLoop_done (j := 4) (by decide) (boothDone_boothSteps (n := 19) hdigit.1 hdigit.2)
  | true =>
    have hlo : -2 ^ 31 ≤ operandValue true rs := BitVec.le_toInt rs
    have hhi : operandValue true rs < 2 ^ 31 := BitVec.toInt_lt
    have hdigit : -2 ≤ operandValue true rs / 4 ^ 15 ∧ operandValue true rs / 4 ^ 15 ≤ 1 := by omega
    exact boothLoop_done (j := 3) (by decide) (boothDone_boothSteps (n := 15) hdigit.1 hdigit.2)

/-- Settles O32: the loop has ended when no digit is left. -/
theorem boothTerminates : Obligations.BoothTerminates := by
  intro signed rm rs
  obtain ⟨hdone, -, -⟩ := boothLoop_boothInit_done signed rm rs
  obtain ⟨-, hpos, hle⟩ := boothLoop_boothInit_done signed 0 rs
  refine ⟨hdone, hpos, Nat.le_trans hle ?_, ?_⟩
  · split <;> decide
  · rintro rfl
    exact hle

/-- An operand extended to 64 bits (R374). -/
theorem extend_eq_ofInt (signed : Bool) (x : Word) :
    (if signed then x.signExtend 64 else x.setWidth 64) = BitVec.ofInt 64 (operandValue signed x) := by
  cases signed with
  | false =>
    simp only [operandValue, Bool.false_eq_true, if_false, BitVec.ofInt_natCast]
    exact (BitVec.ofNat_toNat 64 x).symm
  | true => rfl

/-- R380: the sum and the carry of a finished multiply are the product of the operands' numbers. -/
theorem boothRun_product (signed : Bool) (rm rs : Word) : (boothRun signed rm rs).sum + (boothRun signed rm rs).carry =
    BitVec.ofInt 64 (operandValue signed rm * operandValue signed rs) := by
  have hrest : boothRest (boothRun signed rm rs) = 0 := (boothDone_iff _).mp (boothLoop_boothInit_done signed rm rs).1
  calc (boothRun signed rm rs).sum + (boothRun signed rm rs).carry
    _ = boothProduct (boothRun signed rm rs) := by simp [boothProduct, hrest]
    _ = boothProduct (boothInit signed rm rs) := boothProduct_boothLoop 5 _
    _ = BitVec.ofInt 64 (operandValue signed rm) * BitVec.ofInt 64 (operandValue signed rs) := by
      rw [boothProduct, boothRest_boothInit, ← extend_eq_ofInt signed rm]
      simp [boothInit, MulUnit.sum, MulUnit.carry]
    _ = BitVec.ofInt 64 (operandValue signed rm * operandValue signed rs) := (BitVec.ofInt_mul ..).symm

/-- Settles O33: the product fits into 64 bits, unsigned and signed. -/
theorem boothComputesTheProduct : Obligations.BoothComputesTheProduct := by
  intro rm rs
  rw [boothRun_product, boothRun_product]
  constructor
  · have hlt : rm.toNat * rs.toNat < 2 ^ 32 * 2 ^ 32 := Nat.mul_lt_mul'' rm.isLt rs.isLt
    rw [operandValue_unsigned, operandValue_unsigned, ← Int.natCast_mul, BitVec.ofInt_natCast, BitVec.toNat_ofNat]
    exact Nat.mod_eq_of_lt hlt
  · have hlo := BitVec.le_toInt_mul_toInt (x := rm) (y := rs)
    have hhi := BitVec.toInt_mul_toInt_le (x := rm) (y := rs)
    exact BitVec.toInt_ofInt_eq_self (by decide) (Int.le_trans (by decide) hlo)
      (Int.lt_of_le_of_lt hhi (by decide))

end Sys2Proof.Machine
end

section
/-! SUPPORT. The multiply instructions (44_multiply.md R385 to R392): result, flags, frame. -/

namespace Sys2Proof.Machine

@[simp] theorem clearAccumulators_sum (m : MulUnit) : (clearAccumulators m).sum = 0 := by
  simp [clearAccumulators, MulUnit.sum]

@[simp] theorem clearAccumulators_carry (m : MulUnit) : (clearAccumulators m).carry = 0 := by
  simp [clearAccumulators, MulUnit.carry]

/-! MUL and MLA -/

/-- R386: the C of a multiply is whatever the draw gave, V is as it was. -/
theorem setMulFlags_cpsr (sf : Bool) (r : Word) (s : State) :
    (setMulFlags sf r s).cpsr = flagsOf sf r (Config.freeBit s.draws) s.cpsr.v s.cpsr := by
  cases sf with
  | false => rfl
  | true =>
    simp only [setMulFlags, mulFlags, flagsOf, if_true, BitVec.msb_eq_getLsbD_last]
    rfl

/-- R387, R388: the low word of the product and the accumulate. -/
theorem lowWord_unsignedProduct (x y acc : Word) :
    (unsignedProduct x y + acc.setWidth 64).setWidth 32 = x * y + acc := by
  simp [unsignedProduct, BitVec.setWidth_add, BitVec.setWidth_mul]

/-- MUL or MLA: everything it does. -/
abbrev multiplyEffect (s : State) (rd : Reg) (sf : Bool) (v : Word) (t : State) : Prop :=
  regResult s t rd v ∧ (∃ x : Bool, t.cpsr = flagsOf sf v x s.cpsr.v s.cpsr) ∧ t.pc = s.pc + 4 ∧ sameBytes s t ∧
  keepsSpecial { s with mul := t.mul } t ∧ keepsPort s t ∧ t.mul.sum = 0 ∧ t.mul.carry = 0

theorem multiply_effect (sf : Bool) (rd rs rm : Reg) (acc : Word) (s : State) :
    ∃ t, multiply sf rd rs rm acc s = .next t ∧ multiplyEffect s rd sf (readReg s rm * readReg s rs + acc) t := by
  simp only [multiply, lowWord_unsignedProduct, complete]
  refine ⟨_, rfl, fun q => ?_, ?_, ?_⟩
  · simpa using writeReg_get rd _ (useMulUnit false (readReg s rm) (readReg s rs) (prefetch s)) q
  · simp only [advance_cpsr, setMulFlags_cpsr, writeReg_cpsr, useMulUnit_cpsr, prefetch_cpsr]
    exact ⟨_, rfl⟩
  · simp [sameBytes, keepsSpecial, keepsPort]

theorem completes_of_multiply {c : Cond} {why : Option Unpredictable} {sf : Bool} {rd rs rm : Reg} {acc : State → Word}
    {i : Instr} {s : State} {v : Word} (hp : condPassed c s.cpsr = true) (hw : why = none)
    (he : exec i s = conditional c why s fun s => multiply sf rd rs rm (acc s) s)
    (hv : readReg s rm * readReg s rs + acc s = v) : completes i s (multiplyEffect s rd sf v) := by
  obtain ⟨t, ht, hpost⟩ := multiply_effect sf rd rs rm (acc s) s
  exact ⟨t, he.trans ((conditional_passed hw hp).trans ht), hv ▸ hpost⟩

/-- Settles O34: MUL accumulates 0, MLA `x[Rn]`. -/
theorem multiplyResults : Obligations.MultiplyResults := by
  intro c sf rd rn rs rm s hp
  refine ⟨fun hw => ?_, fun hw => ?_⟩
  · exact completes_of_multiply (acc := fun _ => 0) hp hw rfl (BitVec.add_zero _)
  · exact completes_of_multiply (acc := fun s => readReg s rn) hp hw rfl rfl

/-! The long multiplies -/

/-- R386: C and V of a long multiply are whatever the draws gave. -/
theorem setLongMulFlags_cpsr (sf : Bool) (r : DWord) (s : State) : (setLongMulFlags sf r s).cpsr =
    if sf then
      { s.cpsr with n := r.getLsbD 63, z := r == 0, c := Config.freeBit s.draws, v := Config.freeBit (s.draws + 1) }
    else s.cpsr := by
  cases sf with
  | false => rfl
  | true =>
    rw [setLongMulFlags, if_pos rfl, if_pos rfl, longMulFlags, BitVec.msb_eq_getLsbD_last]

theorem lowWord_ofInt (p : Int) : (BitVec.ofInt 64 p).setWidth 32 = BitVec.ofInt 32 p := by
  apply BitVec.eq_of_toNat_eq
  simp only [BitVec.toNat_setWidth, BitVec.toNat_ofInt]
  omega

theorem highWord_ofInt (p : Int) : (BitVec.ofInt 64 p).extractLsb' 32 32 = BitVec.ofInt 32 (p / 2 ^ 32) := by
  apply BitVec.eq_of_toNat_eq
  simp only [BitVec.extractLsb'_toNat, BitVec.toNat_ofInt, Nat.shiftRight_eq_div_pow]
  omega

theorem ofInt_beq_zero (p : Int) : (BitVec.ofInt 64 p == 0) = decide (p % 2 ^ 64 = 0) := by
  have hzero : BitVec.ofInt 64 p = 0 ↔ p % 2 ^ 64 = 0 := by
    rw [← BitVec.toNat_inj, BitVec.toNat_ofInt]
    change _ = 0 ↔ _
    omega
  exact decide_eq_decide.mpr hzero

/-- A product is that of the operands' numbers (R389, R391). -/
theorem product_eq_ofInt (signed : Bool) (x y : Word) :
    product signed x y = BitVec.ofInt 64 (operandValue signed x * operandValue signed y) := by
  rw [BitVec.ofInt_mul, ← extend_eq_ofInt, ← extend_eq_ofInt]
  cases signed <;> rfl

/-- R390, R392: the accumulator as a number. -/
theorem longAccumulator_eq_ofInt (s : State) (rdHi rdLo : Reg) : longAccumulator s rdHi rdLo =
    BitVec.ofInt 64 ((readReg s rdHi).toNat * 2 ^ 32 + (readReg s rdLo).toNat : Nat) := by
  rw [BitVec.ofInt_natCast, ← Nat.shiftLeft_eq, Nat.shiftLeft_add_eq_or_of_lt (readReg s rdLo).isLt,
    ← BitVec.toNat_append, BitVec.ofNat_toNat, BitVec.setWidth_eq]
  rfl

/-- A long multiply whose result is `p`: everything it does. -/
abbrev longMultiplyEffect (s : State) (rdHi rdLo : Reg) (sf : Bool) (p : Int) (t : State) : Prop :=
  (∀ q : Fin 30, t.regs[q] =
    if phys (modeBank s.cpsr.mode) rdLo = some q then BitVec.ofInt 32 p
    else if phys (modeBank s.cpsr.mode) rdHi = some q then BitVec.ofInt 32 (p / 2 ^ 32) else s.regs[q]) ∧
  (sf = false → t.cpsr = s.cpsr) ∧
  (sf = true → ∃ x y : Bool, t.cpsr =
    { s.cpsr with n := (BitVec.ofInt 64 p).getLsbD 63, z := decide (p % 2 ^ 64 = 0), c := x, v := y }) ∧
  t.pc = s.pc + 4 ∧ sameBytes s t ∧ keepsSpecial { s with mul := t.mul } t ∧ keepsPort s t ∧ t.mul.sum = 0 ∧
  t.mul.carry = 0

/-- R385: the two destinations of a long multiply that is not refused are two registers. -/
theorem restrictLongMul_distinct {rdHi rdLo rs rm : Reg} (h : restrictLongMul rdHi rdLo rs rm = none) :
    rdHi ≠ rdLo := by
  rintro rfl
  rw [restrictLongMul, firstReason, firstReason, beq_self_eq_true, Bool.true_or, Bool.true_or] at h
  split at h <;> cases h

/-- The two words of a result written to their registers. -/
theorem writeReg_pair_get {hi lo : Reg} (h : hi ≠ lo) (x y : Word) (s : State) (q : Fin 30) :
    (writeReg hi x (writeReg lo y s)).regs[q] = if phys (modeBank s.cpsr.mode) lo = some q then y
      else if phys (modeBank s.cpsr.mode) hi = some q then x else s.regs[q] := by
  rw [writeReg_get, writeReg_get, writeReg_cpsr]
  split
  · next hhi => rw [if_neg fun hlo => h (phys_injective hhi hlo)]
  · rfl

theorem longMultiply_effect {signed : Bool} (sf : Bool) {rdHi rdLo rs rm : Reg} {acc : DWord} {s : State} {p : Int}
    (hd : rdHi ≠ rdLo) (hv : product signed (readReg s rm) (readReg s rs) + acc = BitVec.ofInt 64 p) :
    ∃ t, longMultiply signed sf rdHi rdLo rs rm acc s = .next t ∧ longMultiplyEffect s rdHi rdLo sf p t := by
  simp only [longMultiply, hv, lowWord_ofInt, highWord_ofInt, complete]
  refine ⟨_, rfl, fun q => ?_, ?_, ?_, ?_⟩
  · simp only [advance_regs, setLongMulFlags_regs, writeReg_pair_get hd, useMulUnit_regs, prefetch_regs, useMulUnit_cpsr,
      prefetch_cpsr]
  · rintro rfl
    simp [setLongMulFlags_cpsr]
  · rintro rfl
    simp only [advance_cpsr, setLongMulFlags_cpsr, if_true, ofInt_beq_zero, writeReg_cpsr, useMulUnit_cpsr,
      prefetch_cpsr]
    exact ⟨_, _, rfl⟩
  · simp [sameBytes, keepsSpecial, keepsPort]

theorem completes_of_longMultiply {c : Cond} {signed sf : Bool} {rdHi rdLo rs rm : Reg} {acc : State → DWord}
    {i : Instr} {s : State} {a p : Int} (hp : condPassed c s.cpsr = true) (hw : restrictLongMul rdHi rdLo rs rm = none)
    (he : exec i s = conditional c (restrictLongMul rdHi rdLo rs rm) s fun s =>
      longMultiply signed sf rdHi rdLo rs rm (acc s) s)
    (ha : acc s = BitVec.ofInt 64 a)
    (hv : operandValue signed (readReg s rm) * operandValue signed (readReg s rs) + a = p) :
    completes i s (longMultiplyEffect s rdHi rdLo sf p) := by
  have hproduct : product signed (readReg s rm) (readReg s rs) + acc s = BitVec.ofInt 64 p := by
    rw [product_eq_ofInt, ha, ← BitVec.ofInt_add, hv]
  obtain ⟨t, ht, hpost⟩ := longMultiply_effect sf (restrictLongMul_distinct hw) hproduct
  exact ⟨t, he.trans ((conditional_passed hw hp).trans ht), hpost⟩

/-- Settles O35: UMULL and SMULL accumulate 0, UMLAL and SMLAL the two destinations. -/
theorem longMultiplyResults : Obligations.LongMultiplyResults := by
  intro c sf rdHi rdLo rs rm s hp hw acc u g post
  have hu : operandValue false (readReg s rm) * operandValue false (readReg s rs) = u := (Int.natCast_mul ..).symm
  have hzero : (0 : DWord) = BitVec.ofInt 64 0 := rfl
  have hacc : longAccumulator s rdHi rdLo = BitVec.ofInt 64 acc := longAccumulator_eq_ofInt s rdHi rdLo
  refine ⟨?_, ?_, ?_, ?_⟩
  · exact completes_of_longMultiply (acc := fun _ => 0) hp hw rfl hzero ((Int.add_zero _).trans hu)
  · exact completes_of_longMultiply (acc := (longAccumulator · rdHi rdLo)) hp hw rfl hacc (congrArg (· + acc) hu)
  · exact completes_of_longMultiply (acc := fun _ => 0) hp hw rfl hzero (Int.add_zero g)
  · exact completes_of_longMultiply (acc := (longAccumulator · rdHi rdLo)) hp hw rfl hacc rfl

end Sys2Proof.Machine
end

section
/-! SUPPORT. The addresses and offsets of the single and half-word transfers (45_load_store.md R410, R430). -/

namespace Sys2Proof.Machine

/-- Settles O36: each offset form is its own case, and each addressing mode is one use of the shared address rule. -/
theorem transferAddresses : Obligations.TransferAddresses := by
  intro u p w rn off hoff s base moved o h
  refine ⟨?_, ?_, ?_, ?_, ⟨rfl, rfl⟩, ⟨rfl, rfl⟩, ⟨rfl, rfl⟩, rfl, ?_⟩
  · rintro x rfl
    exact (BitVec.ofNat_toNat 32 x).symm
  · rintro rm ty k rfl
    rfl
  · rintro x rfl
    exact (BitVec.ofNat_toNat 32 x).symm
  · rintro sbz rm rfl
    rfl
  · cases p <;> cases w <;> rfl

end Sys2Proof.Machine
end

section
/-! SUPPORT. The lanes of a word: what of it a byte or half-word address selects, and what a store puts on the data bus
(20_memory.md R105, R110, R115, R116). -/

namespace Sys2Proof.Machine

/-- Byte lane `k` of a word made of four bytes is byte `k`. -/
theorem byteOf_wordOfBytes (b : Nat → Byte) {k : Nat} (h : k < 4) :
    byteOf (wordOfBytes (b 0) (b 1) (b 2) (b 3)) k = b k := by
  apply BitVec.eq_of_toNat_eq
  rw [byteOf, field_toNat, wordOfBytes, BitVec.toNat_ofNat]
  obtain rfl | rfl | rfl | rfl : k = 0 ∨ k = 1 ∨ k = 2 ∨ k = 3 := by omega
  all_goals omega

theorem byteOf_wordAt (m : Memory) (a : Nat) {k : Nat} (h : k < 4) : byteOf (wordAt m a) k = readByte m (a + k) :=
  byteOf_wordOfBytes (fun j => readByte m (a + j)) h

/-- The byte an address selects from its aligned word is the byte at the address. -/
theorem byteLane_wordAt (m : Memory) (a : Nat) : byteLane a (wordAt m (a / 4 * 4)) = readByte m a := by
  have h := byteOf_wordAt m (a / 4 * 4) (Nat.mod_lt a (by decide : 0 < 4))
  rwa [Nat.div_add_mod'] at h

/-- A half-word of a word is two of its bytes. -/
theorem halfLane_eq_append (a : Nat) (x : Word) :
    halfLane a x = byteOf x (a / 2 % 2 * 2 + 1) ++ byteOf x (a / 2 % 2 * 2) := by
  rw [byteOf, byteOf, BitVec.extractLsb'_append_extractLsb'_eq_extractLsb' (by omega), halfLane]
  congr 1
  omega

/-- The half-word an even address selects from its aligned word is the half-word at the address. -/
theorem halfLane_wordAt (m : Memory) {a : Nat} (h : a % 2 = 0) : halfLane a (wordAt m (a / 4 * 4)) = halfAt m a := by
  have hlow : a / 4 * 4 + a / 2 % 2 * 2 = a := by omega
  rw [halfLane_eq_append, byteOf_wordAt m _ (by omega), byteOf_wordAt m _ (by omega), ← Nat.add_assoc, hlow, halfAt]

/-- The data bus of a store carries the value's bytes over and over (R115). -/
theorem replicate_eq_wordOfBytes (w : Width) (v : Word) : replicate w v = wordOfBytes (byteOf v (0 % w.bytes))
    (byteOf v (1 % w.bytes)) (byteOf v (2 % w.bytes)) (byteOf v (3 % w.bytes)) := by
  cases w with
  | byte =>
    change byteOf v 0 ++ byteOf v 0 ++ byteOf v 0 ++ byteOf v 0 =
      wordOfBytes (byteOf v 0) (byteOf v 0) (byteOf v 0) (byteOf v 0)
    apply BitVec.eq_of_toNat_eq
    simp only [append_toNat, wordOfBytes, BitVec.toNat_ofNat]
    omega
  | half =>
    change halfLane 0 v ++ halfLane 0 v = wordOfBytes (byteOf v 0) (byteOf v 1) (byteOf v 0) (byteOf v 1)
    rw [show halfLane 0 v = byteOf v 1 ++ byteOf v 0 from halfLane_eq_append 0 v]
    apply BitVec.eq_of_toNat_eq
    simp only [append_toNat, wordOfBytes, BitVec.toNat_ofNat]
    omega
  | word => exact (wordOfBytes_byteOf v).symm

theorem byteOf_replicate (w : Width) (v : Word) {k : Nat} (h : k < 4) :
    byteOf (replicate w v) k = byteOf v (k % w.bytes) := by
  rw [replicate_eq_wordOfBytes]
  exact byteOf_wordOfBytes (fun j => byteOf v (j % w.bytes)) h

theorem storeStart_mod_bytes (w : Width) (a : Word) : storeStart w a % w.bytes = 0 := by
  cases w with
  | byte => exact Nat.mod_one _
  | half => exact Nat.mul_mod_left ..
  | word => exact Nat.mul_mod_left ..

/-- The lanes a store selects carry the bytes of its value, the lowest first (R115). -/
theorem byteOf_replicate_lane (w : Width) (a v : Word) {j : Nat} (h : j < w.bytes) :
    byteOf (replicate w v) ((storeStart w a + j) % 4) = byteOf v j := by
  have hdvd : w.bytes ∣ 4 := by cases w <;> decide
  rw [byteOf_replicate w v (Nat.mod_lt _ (by decide)), Nat.mod_mod_of_dvd _ hdvd, Nat.add_mod, storeStart_mod_bytes,
    Nat.zero_add, Nat.mod_mod, Nat.mod_eq_of_lt h]

/-- A store in external memory leaves its value's bytes at its address and every other byte as before (R111, R115). -/
theorem storedBytes_of_storeBytes {s t : State} (hm : Memory.wf s.mem) {w : Width} {a v : Word}
    (ht : t.mem = storeBytes s.mem w a (replicate w v)) : storedBytes s t w a v := by
  rw [storedBytes, ht]
  refine ⟨fun j hj => ?_, fun x hx => ?_⟩
  · rw [storeBytes, readByte_writeLanes_same hm _ _ _ (Nat.le_add_right ..) (Nat.add_lt_add_left hj _),
      byteOf_replicate_lane w a v hj]
  · refine readByte_writeLanes_other _ _ _ _ ?_
    simp only [storeTouches, Bool.and_eq_false_iff, decide_eq_false_iff_not] at hx
    omega

/-- Sign extension takes the byte or half-word that was read (45_load_store.md R436, R437). -/
theorem extendLoad_signByte (b : Byte) : extendLoad .signByte (b.setWidth 32) = b.signExtend 32 := by
  rw [extendLoad, BitVec.extractLsb'_setWidth_of_le (by decide), BitVec.extractLsb'_eq_self]

/-- See `extendLoad_signByte`. -/
theorem extendLoad_signHalf (h : Half) : extendLoad .signHalf (h.setWidth 32) = h.signExtend 32 := by
  rw [extendLoad, BitVec.extractLsb'_setWidth_of_le (by decide), BitVec.extractLsb'_eq_self]

/-- A half-word access that is served is at an even address (20_memory.md R112). -/
theorem even_of_busFault_half {cfg : Config} {a : Word} (h : busFault cfg .half a = none) : a.toNat % 2 = 0 := by
  have hbit : a.getLsbD 0 = false := by
    cases hodd : a.getLsbD 0 with
    | false => rfl
    | true =>
      rw [busFault, if_pos ⟨rfl, hodd⟩] at h
      cases h
  rw [bit_eq, Nat.pow_zero, Nat.div_one, decide_eq_false_iff_not] at hbit
  omega

end Sys2Proof.Machine
end

section
/-! SUPPORT. The data read of an instruction, after its prefetch (20_memory.md R116, R150, R152). -/

namespace Sys2Proof.Machine

/-- A fetch keeps a coherent cache coherent, at an aligned address or not. -/
theorem fetch_cacheCoherent {s : State} (hw : Config.wf s.cfg) (hc : cacheCoherent s.cfg s.mem s.cache) (a : Word) :
    cacheCoherent s.cfg s.mem (fetch a s).2.cache := by
  unfold fetch
  split
  · exact hc
  · exact (cachedWord_coherent hw hc (by rw [alignWord_toNat]; omega)).2

theorem prefetch_cacheCoherent {s : State} (hw : Config.wf s.cfg) (hc : cacheCoherent s.cfg s.mem s.cache) :
    cacheCoherent s.cfg s.mem (prefetch s).cache :=
  fetch_cacheCoherent hw hc s.pipe.fetchAddr

theorem alignWord_msb (a : Word) : (alignWord a).msb = a.msb := by
  rw [alignWord, BitVec.msb_and]
  exact Bool.and_true _

/-- The aligned word that an instruction's data read brings. -/
def dataWord (a : Word) (s : State) : Word := (busWord (alignWord a) (prefetch s)).1

/-- In external memory, through a coherent cache, it is the word memory holds. -/
theorem dataWord_memory {s : State} (hw : Config.wf s.cfg) (hc : cacheCoherent s.cfg s.mem s.cache) {a : Word}
    (hm : a.msb = false) : dataWord a s = wordAt s.mem (a.toNat / 4 * 4) := by
  obtain ⟨hword, -⟩ := busWord_coherent (s := prefetch s) (a := alignWord a) (by simpa using hw)
    (by simpa using prefetch_cacheCoherent hw hc) (by rw [alignWord_msb, hm]) (by rw [alignWord_toNat]; omega)
  rw [dataWord, hword, prefetch_mem, alignWord_toNat]

theorem busRead_prefetch {w : Width} {a : Word} {s : State} (h : busFault s.cfg w a = none) :
    busRead w a (prefetch s) = .next (extractRead w a (dataWord a s), (busWord (alignWord a) (prefetch s)).2) :=
  (busRead_eq_next _).mpr ⟨by simpa using h, rfl⟩

/-- The registers after a write of the base, where they and the CPSR are still those of `s`. -/
theorem writeBack_get {s u : State} (hr : u.regs = s.regs) (hp : u.cpsr = s.cpsr) (rn : Reg) (wb : Option Word)
    (q : Fin 30) : (writeBack rn wb u).regs[q] = baseResult s rn wb q := by
  cases wb with
  | none => simp only [writeBack, baseResult, hr]
  | some x => rw [writeBack, baseResult, writeReg_get, hr, hp]

end Sys2Proof.Machine
end

section
/-! SUPPORT. The loads (45_load_store.md R415, R417, R418, R426, R428, R432, R436, R437). -/

namespace Sys2Proof.Machine

/-- A load into a register other than R15: the base is written, then the register with what was read. -/
theorem load_effect {w : Width} (x : Extend) {a : Address} (rn : Reg) {rd : Reg} {s : State}
    (hf : busFault s.cfg w a.addr = none) (hrd : rd ≠ 15) : ∃ t, load w x a rn rd s = .next t ∧
      (∀ q : Fin 30, t.regs[q] = if phys (modeBank s.cpsr.mode) rd = some q
        then extendLoad x (extractRead w a.addr (dataWord a.addr s)) else baseResult s rn a.wb q) ∧
      t.cpsr = s.cpsr ∧ t.pc = s.pc + 4 ∧ sameBytes s t ∧ keepsSpecial s t ∧ keepsPort s t := by
  simp only [load, busRead_prefetch hf, andThen_next, if_neg hrd, complete]
  refine ⟨_, rfl, fun q => ?_, ?_⟩
  · rw [advance_regs, writeReg_get, writeBack_get (s := s) (by simp) (by simp)]
    simp only [writeBack_cpsr, busWord_cpsr, prefetch_cpsr]
  · simp [sameBytes, keepsSpecial, keepsPort]

/-- What the seven loads have in common: each is `load`, which takes from the word read what the form says, and that, of
the word memory holds, is the form's value. -/
theorem loadForms_load {c : Cond} {ix : Indexing} {p u w : Bool} {rn rd : Reg} {off : Offset} {hoff : HalfOffset}
    {s : State} {f : LoadForm} (h : f ∈ loadForms c ix p u w rn rd off hoff s)
    (hf : busFault s.cfg f.width f.address.addr = none) :
    ∃ (x : Extend) (address : State → Address), address s = f.address ∧
      (exec f.instr s = conditional c f.refusal s fun s => load f.width x (address s) rn rd s) ∧
      (∀ y, extendLoad x (extractRead f.width f.address.addr y) = f.lane f.address.addr.toNat y) ∧
      ∀ m, f.lane f.address.addr.toNat (wordAt m (f.address.addr.toNat / 4 * 4)) =
        f.value m f.address.addr.toNat := by
  simp only [loadForms, List.mem_cons, List.not_mem_nil, or_false] at h
  rcases h with rfl | rfl | rfl | rfl | rfl | rfl | rfl
  · exact ⟨.zero, singleAddress ix u rn off, rfl, rfl, fun _ => rfl, fun _ => rfl⟩
  · exact ⟨.zero, singleAddress .post u rn off, rfl, rfl, fun _ => rfl, fun _ => rfl⟩
  · exact ⟨.zero, singleAddress ix u rn off, rfl, rfl, fun _ => rfl,
      fun m => congrArg (·.setWidth 32) (byteLane_wordAt m _)⟩
  · exact ⟨.zero, singleAddress .post u rn off, rfl, rfl, fun _ => rfl,
      fun m => congrArg (·.setWidth 32) (byteLane_wordAt m _)⟩
  · exact ⟨.zero, halfAddress p u w rn hoff, rfl, rfl, fun _ => rfl,
      fun m => congrArg (·.setWidth 32) (halfLane_wordAt m (even_of_busFault_half hf))⟩
  · exact ⟨.signByte, halfAddress p u w rn hoff, rfl, rfl, fun _ => extendLoad_signByte _,
      fun m => congrArg (·.signExtend 32) (byteLane_wordAt m _)⟩
  · exact ⟨.signHalf, halfAddress p u w rn hoff, rfl, rfl, fun _ => extendLoad_signHalf _,
      fun m => congrArg (·.signExtend 32) (halfLane_wordAt m (even_of_busFault_half hf))⟩

/-- Settles O37: each of the seven is one `load`, whose data read is a read of memory or a peripheral's free word. -/
theorem loadResults : Obligations.LoadResults := by
  intro c ix p u w rn rd off hoff s hp hw hc hrd f hform hu hf
  obtain ⟨x, address, haddress, hexec, hlane, hvalue⟩ := loadForms_load hform hf
  obtain ⟨t, ht, hregs, hframe⟩ := load_effect x rn hf hrd
  rw [hlane] at hregs
  rw [← haddress] at ht
  refine ⟨t, hexec.trans ((conditional_passed hu hp).trans ht), _, fun hm => ?_, fun _ => ⟨_, rfl⟩, hregs, hframe⟩
  rw [dataWord_memory hw hc hm, hvalue]

/-! R15 -/

/-- A load into R15: the base is written, then `LoadPC` of what was read (R418). -/
theorem load_fifteen {w : Width} (x : Extend) {a : Address} (rn : Reg) {s : State}
    (hf : busFault s.cfg w a.addr = none) : load w x a rn 15 s =
      loadPc a.addr (extractRead w a.addr (dataWord a.addr s))
        (writeBack rn a.wb (busWord (alignWord a.addr) (prefetch s)).2) := by
  simp only [load, busRead_prefetch hf, andThen_next, if_true]

theorem loadPc_unaligned {a : Word} (v : Word) (s : State) (h : a.toNat % 4 ≠ 0) :
    loadPc a v s = .fault .unalignedLoadPc :=
  if_pos (mt lowBits_eq_zero.mp h)

theorem loadPc_aligned {a : Word} (v : Word) (s : State) (h : a.toNat % 4 = 0) :
    loadPc a v s = .next (jump (alignWord v) s) :=
  if_neg (not_not_intro (lowBits_eq_zero.mpr h))

/-- A word read at an aligned address is not rotated (20_memory.md R110). -/
theorem extractRead_word_aligned {a : Word} (y : Word) (h : a.toNat % 4 = 0) : extractRead .word a y = y := by
  simp [extractRead, h, BitVec.rotateRight, BitVec.rotateRightAux]

/-- Settles O38: both are `LoadPC` of the word read, which checks the address, then jumps to the aligned word. -/
theorem loadIntoPc : Obligations.LoadIntoPc := by
  intro c ix u rn off s hp hw hc f hform a hu hf
  have hexec : exec f.1 s = conditional c (unpredictable f.1) s fun s =>
      load .word .zero (singleAddress f.2 u rn off s) rn 15 s := by
    simp only [List.mem_cons, List.not_mem_nil, or_false] at hform
    rcases hform with rfl | rfl <;> rfl
  rw [conditional_passed hu hp, load_fifteen _ _ hf] at hexec
  refine ⟨fun h => hexec.trans (loadPc_unaligned _ _ h), fun h => ?_⟩
  rw [extractRead_word_aligned _ h, loadPc_aligned _ _ h] at hexec
  refine ⟨_, hexec, fun hm => ?_, ?_, fun q => ?_, ?_⟩
  · rw [jump_pc, dataWord_memory hw hc hm, Nat.div_mul_cancel (Nat.dvd_of_mod_eq_zero h), alignWord]
  · rw [jump_pc, alignWord_toNat]
    omega
  · rw [jump_regs]
    exact writeBack_get (by simp) (by simp) rn a.wb q
  · simp [sameBytes, keepsSpecial, keepsPort]

end Sys2Proof.Machine
end

section
/-! SUPPORT. The stores and the swaps (45_load_store.md R416, R419, R420, R427, R429, R433, R440, R441): a write on the
bus, in external memory or to a peripheral (20_memory.md R111, R115, R118, R153). -/

namespace Sys2Proof.Machine

theorem busFault_of_storeFault {cfg : Config} {cur a : Word} {w : Width} (h : storeFault cfg cur w a = none) :
    busFault cfg w a = none := by
  cases hf : busFault cfg w a with
  | none => rfl
  | some e => simp [storeFault, hf] at h

/-- The event of a write, its address written out (R111). -/
theorem periphEvent_eq (w : Width) (a v : Word) : periphEvent w a v =
    { addr := if w = .word then a &&& 0xFFFFFFFC#32 else a, data := replicate w v, width := w } := by
  cases w <;> rfl

/-- A write in external memory: its bytes and no event. -/
abbrev writesMemory (s t : State) (w : Width) (a v : Word) : Prop :=
  a.msb = false → storedBytes s t w a v ∧ t.periphWrites = s.periphWrites

/-- A write in peripheral space: one more event and no byte. -/
abbrev writesPeripheral (s t : State) (w : Width) (a v : Word) : Prop :=
  a.msb = true → sameBytes s t ∧ t.periphWrites = s.periphWrites ++
    [{ addr := if w = .word then a &&& 0xFFFFFFFC#32 else a, data := replicate w v, width := w }]

/-- A state with the memory and the events of a bus write is as that write says. -/
theorem writes_of_storeEffect {s t : State} (hm : Memory.wf s.mem) {w : Width} {a v : Word}
    (hmem : t.mem = (storeEffect w a v s).mem) (hevents : t.periphWrites = (storeEffect w a v s).periphWrites) :
    writesMemory s t w a v ∧ writesPeripheral s t w a v := by
  rw [storeEffect_mem] at hmem
  rw [storeEffect_periphWrites, periphEvent_eq] at hevents
  constructor
  · intro h
    simp only [h, Bool.false_eq_true, if_false] at hmem hevents
    exact ⟨storedBytes_of_storeBytes hm hmem, hevents⟩
  · intro h
    simp only [h, if_true] at hmem hevents
    exact ⟨fun b => by rw [hmem], hevents⟩

/-- What a store of a register writes, said by its number (R416, R420). -/
theorem storeValue_eq_storedWord (s : State) (i : Reg) : storeValue s (modeBank s.cpsr.mode) i = storedWord s i := by
  rcases Decidable.em (i = 15) with rfl | hne
  · rw [storedWord, if_pos rfl, storeValue, phys_fifteen]
    cases s.cfg.pcStoreOffset <;> rfl
  · obtain ⟨q, hq⟩ := phys_isSome (b := modeBank s.cpsr.mode) hne
    rw [storedWord, if_neg hne, storeValue, readReg, readBank, hq]

/-- A store: the value is written on the bus, then the base to its register (R411). -/
theorem store_effect {w : Width} {a : Address} (rn rd : Reg) {s : State} (hm : Memory.wf s.mem)
    (hf : storeFault s.cfg s.pc w a.addr = none) : ∃ t, store w a rn rd s = .next t ∧
      writesMemory s t w a.addr (storedWord s rd) ∧ writesPeripheral s t w a.addr (storedWord s rd) ∧
      (∀ q : Fin 30, t.regs[q] = baseResult s rn a.wb q) ∧ t.cpsr = s.cpsr ∧ t.pc = s.pc + 4 ∧
      keepsSpecial { s with periphWrites := t.periphWrites } t ∧ keepsPort s t := by
  have hwrite : busWrite w a.addr (storedWord s rd) (prefetch s) =
      .next (storeEffect w a.addr (storedWord s rd) (prefetch s)) :=
    (busWrite_eq_next _).mpr ⟨by simpa using hf, rfl⟩
  simp only [store, storeValue_eq_storedWord, hwrite, andThen_next, complete]
  refine ⟨_, rfl, ?_⟩
  rw [← and_assoc]
  refine ⟨writes_of_storeEffect hm (by simp) (by simp), fun q => ?_, ?_⟩
  · rw [advance_regs]
    exact writeBack_get (by simp) (by simp) rn a.wb q
  · simp [keepsSpecial, keepsPort]

/-- Each of the five stores is `store` at its form's address and width. -/
theorem storeForms_store {c : Cond} {ix : Indexing} {p u w : Bool} {rn rd : Reg} {off : Offset} {hoff : HalfOffset}
    {s : State} {f : StoreForm} (h : f ∈ storeForms c ix p u w rn rd off hoff s) :
    ∃ address : State → Address, address s = f.address ∧
      exec f.instr s = conditional c f.refusal s fun s => store f.width (address s) rn rd s := by
  simp only [storeForms, List.mem_cons, List.not_mem_nil, or_false] at h
  rcases h with rfl | rfl | rfl | rfl | rfl
  · exact ⟨singleAddress ix u rn off, rfl, rfl⟩
  · exact ⟨singleAddress .post u rn off, rfl, rfl⟩
  · exact ⟨singleAddress ix u rn off, rfl, rfl⟩
  · exact ⟨singleAddress .post u rn off, rfl, rfl⟩
  · exact ⟨halfAddress p u w rn hoff, rfl, rfl⟩

/-- Settles O39: each of the five is one `store`, a bus write and then the base. -/
theorem storeResults : Obligations.StoreResults := by
  intro c ix p u w rn rd off hoff s hp hm f hform hu hf
  obtain ⟨address, haddress, hexec⟩ := storeForms_store hform
  obtain ⟨t, ht, hpost⟩ := store_effect rn rd hm hf
  rw [← haddress] at ht
  exact ⟨t, hexec.trans ((conditional_passed hu hp).trans ht), hpost⟩

/-- A swap: what was read goes to `rd`, the value of `rm` to the bus, at one address. -/
theorem swap_effect {w : Width} {rn : Reg} (rd rm : Reg) {s : State} (hm : Memory.wf s.mem)
    (hf : storeFault s.cfg s.pc w (readReg s rn) = none) : ∃ t, swap w rn rd rm s = .next t ∧
      regResult s t rd (extractRead w (readReg s rn) (dataWord (readReg s rn) s)) ∧
      writesMemory s t w (readReg s rn) (readReg s rm) ∧ writesPeripheral s t w (readReg s rn) (readReg s rm) ∧
      t.cpsr = s.cpsr ∧ t.pc = s.pc + 4 ∧ keepsSpecial { s with periphWrites := t.periphWrites } t ∧
      keepsPort s t := by
  have hread := busRead_prefetch (busFault_of_storeFault hf)
  have hwrite : busWrite w (readReg s rn) (readReg s rm) (busWord (alignWord (readReg s rn)) (prefetch s)).2 =
      .next (storeEffect w (readReg s rn) (readReg s rm) (busWord (alignWord (readReg s rn)) (prefetch s)).2) :=
    (busWrite_eq_next _).mpr ⟨by simpa using hf, rfl⟩
  simp only [swap, hread, andThen_next, hwrite, complete]
  refine ⟨_, rfl, fun q => ?_, ?_⟩
  · rw [advance_regs, writeReg_get]
    simp only [storeEffect_cpsr, busWord_cpsr, prefetch_cpsr, storeEffect_regs, busWord_regs, prefetch_regs]
  · rw [← and_assoc]
    exact ⟨writes_of_storeEffect hm (by simp) (by simp), by simp [keepsSpecial, keepsPort]⟩

/-- Settles O41: the word and the byte form are one swap, whose data read is a read of memory or a peripheral's free
word. -/
theorem swapResults : Obligations.SwapResults := by
  intro c rn rd rm s hp hu hw hc hm a post
  have hexec (w : Width) : conditional c (restrictSwap rn rd rm) s (swap w rn rd rm) = swap w rn rd rm s :=
    conditional_passed hu hp
  constructor
  · intro hf
    obtain ⟨t, ht, hrd, hpost⟩ := swap_effect rd rm hm hf
    refine ⟨t, (hexec .word).trans ht, ⟨_, fun h => ?_, fun _ => ⟨_, rfl⟩, hrd⟩, hpost⟩
    rw [dataWord_memory hw hc h]
    rfl
  · intro hf
    obtain ⟨t, ht, hrd, hpost⟩ := swap_effect rd rm hm hf
    refine ⟨t, (hexec .byte).trans ht, ⟨_, fun h => ?_, fun _ => ⟨_, rfl⟩, hrd⟩, hpost⟩
    rw [dataWord_memory hw hc h]
    exact congrArg (·.setWidth 32) (byteLane_wordAt s.mem a.toNat)

end Sys2Proof.Machine
end

section
/-! SUPPORT. The places of a block transfer: each listed register's word is one word on from that of the listed register
below it (46_block_transfer.md R463). -/

namespace Sys2Proof.Machine

/-- The registers of a list have their words at `a`, `a + 4`, …, in order: register `i` at `place i` (R463). -/
def placed (l : List Reg) (a : Word) (place : Reg → Word) : Prop :=
  ∀ k i, l[k]? = some i → place i = a + BitVec.ofNat 32 (4 * k)

section
variable {i : Reg} {l : List Reg} {a : Word} {place : Reg → Word}

theorem placed_head (h : placed (i :: l) a place) : place i = a := by simpa using h 0 i rfl

theorem placed_tail (h : placed (i :: l) a place) : placed l (a + 4) place := by
  intro k j hj
  rw [h (k + 1) j hj, Nat.mul_succ, BitVec.ofNat_add, BitVec.add_comm (.ofNat 32 (4 * k)), ← BitVec.add_assoc]
  rfl

/-- In a rising list the registers below one are those before it. -/
theorem length_filter_lt_of_sorted {k : Nat} (hl : l.Pairwise (· < ·)) (hk : l[k]? = some i) :
    (l.filter (decide <| · < i)).length = k := by
  induction l generalizing k with
  | nil => cases hk
  | cons j l ih =>
    obtain ⟨hj, hl⟩ := List.pairwise_cons.mp hl
    cases k with
    | zero =>
      cases hk
      have hnone : ∀ x ∈ i :: l, ¬ decide (x < i) = true := List.forall_mem_cons.mpr
        ⟨mt of_decide_eq_true (Nat.lt_irrefl _), fun x hx => mt of_decide_eq_true (Nat.lt_asymm (hj x hx))⟩
      rw [List.filter_eq_nil_iff.mpr hnone, List.length_nil]
    | succ k =>
      have hlt : j < i := hj i (List.mem_of_getElem? hk)
      rw [List.filter_cons_of_pos (p := (decide <| · < i)) (decide_eq_true hlt), List.length_cons, ih hl hk]

end

theorem listed_sorted (list : BitVec 16) : (listed list).Pairwise (· < ·) :=
  (List.pairwise_lt_finRange 16).filter _

theorem listed_nodup (list : BitVec 16) : (listed list).Nodup := (List.nodup_finRange 16).filter _

theorem mem_listed {list : BitVec 16} {i : Reg} : i ∈ listed list ↔ list.getLsbD i.val = true := by simp [listed]

theorem length_listed (list : BitVec 16) : (listed list).length = popcount list := by
  have hrange : List.range 16 = (List.finRange 16).map (·.val) := by decide
  rw [popcount, hrange, List.filter_map, List.length_map]
  rfl

/-- The rank of a listed register is its place in the list of them. -/
theorem listRank_of_getElem {list : BitVec 16} {k : Nat} {i : Reg} (h : (listed list)[k]? = some i) :
    listRank list i = k := by
  rw [← length_filter_lt_of_sorted (listed_sorted list) h, listRank, listed, List.filter_filter]

theorem listRank_lt {list : BitVec 16} {i : Reg} (h : i ∈ listed list) : listRank list i < popcount list := by
  obtain ⟨k, hk⟩ := List.mem_iff_getElem?.mp h
  rw [listRank_of_getElem hk, ← length_listed]
  exact (List.getElem?_eq_some_iff.mp hk).1

/-- R15, where it is listed, is the last. -/
theorem listRank_fifteen {list : BitVec 16} (h : 15 ∈ listed list) : listRank list 15 = popcount list - 1 := by
  obtain ⟨k, hk⟩ := List.mem_iff_getElem?.mp h
  obtain ⟨hlt, heq⟩ := List.getElem?_eq_some_iff.mp hk
  rw [listRank_of_getElem hk, ← length_listed]
  refine Decidable.byContradiction fun hne => ?_
  have hnext := List.pairwise_iff_getElem.mp (listed_sorted list) k (k + 1) hlt (by omega) (Nat.lt_succ_self k)
  rw [heq] at hnext
  exact Fin.not_lt.mpr (Fin.le_last _) hnext

theorem blockStart_eq (m : BlockMode) (base : Word) (list : BitVec 16) :
    blockStart m base list = tableStart m base (popcount list) := by
  cases m <;> simp only [blockStart, tableStart, blockSize, length_listed]

theorem blockFinal_eq (m : BlockMode) (base : Word) (list : BitVec 16) :
    blockFinal m base list = tableFinal m base (popcount list) := by
  cases m <;> simp only [blockFinal, tableFinal, blockSize, length_listed]

/-- The address of the word of a listed register (R463). -/
abbrev registerWord (m : BlockMode) (rn : Reg) (list : BitVec 16) (s : State) (i : Reg) : Word :=
  blockWord m rn list s (listRank list i)

theorem placed_registerWord (m : BlockMode) (w : Bool) (rn : Reg) (list : BitVec 16) (s : State) :
    placed (listed list) (blockAddress m w rn list s).addr (registerWord m rn list s) := by
  intro k i h
  rw [registerWord, listRank_of_getElem h, blockWord, blockAddress, blockStart_eq]

/-- The base as W says (R464). -/
theorem baseResult_blockAddress (m : BlockMode) (w : Bool) (rn : Reg) (list : BitVec 16) (s : State) (q : Fin 30) :
    baseResult s rn (blockAddress m w rn list s).wb q =
      if w = true ∧ phys (modeBank s.cpsr.mode) rn = some q then tableFinal m (readReg s rn) (popcount list)
      else s.regs[q] := by
  cases w with
  | false => simp [blockAddress, baseResult]
  | true => simp [blockAddress, baseResult, blockFinal_eq]

theorem transferBank_eq_blockBank (s : State) (user : Bool) : transferBank s user = blockBank s user := rfl

end Sys2Proof.Machine
end

section
/-! SUPPORT. LDM (46_block_transfer.md R460, R462 to R466): the reads, the registers, then the pc. -/

namespace Sys2Proof.Machine

/-! The reads -/

theorem alignWord_mod_four (a : Word) : (alignWord a).toNat % 4 = 0 := lowBits_eq_zero.mp (alignWord_aligned a)

theorem alignWord_alignWord (a : Word) : alignWord (alignWord a) = alignWord a := by
  rw [alignWord, alignWord, BitVec.and_assoc, BitVec.and_self]

/-- A word access ignores bits 1:0 of its address (20_memory.md R110). -/
theorem busFault_word_alignWord (cfg : Config) (a : Word) :
    busFault cfg .word (alignWord a) = busFault cfg .word a := by
  simp [busFault, busAddress, alignWord_alignWord]

/-- A data read changes the cache and the draws alone. -/
theorem busWord_frame (a : Word) (s : State) :
    (busWord a s).2 = { s with cache := (busWord a s).2.cache, draws := (busWord a s).2.draws } := by
  unfold busWord cachedWord
  dsimp only
  split
  · rfl
  · split
    · split <;> rfl
    · rfl

/-- A data read at an aligned address, of memory or of a peripheral, keeps a coherent cache coherent. -/
theorem busWord_keeps_coherent {s : State} (hw : Config.wf s.cfg) (hc : cacheCoherent s.cfg s.mem s.cache) (a : Word) :
    cacheCoherent s.cfg s.mem (busWord (alignWord a) s).2.cache := by
  cases hm : (alignWord a).msb with
  | true => rwa [busWord_peripheral hm]
  | false => exact (busWord_coherent hw hc hm (alignWord_mod_four a)).2

/-- One read of an LDM: nothing is rotated (R460). -/
theorem busRead_alignWord {a : Word} {s : State} (h : busFault s.cfg .word a = none) :
    busRead .word (alignWord a) s = .next (busWord (alignWord a) s) := by
  rw [busRead_eq_next, busFault_word_alignWord, extractRead_word_aligned _ (alignWord_mod_four a), alignWord_alignWord]
  exact ⟨h, rfl⟩

/-- The values of registers with that of one replaced. -/
def setValue (i : Reg) (v : Word) (value : Reg → Word) (j : Reg) : Word := if j = i then v else value j

theorem setValue_self (i : Reg) (v : Word) (value : Reg → Word) : setValue i v value i = v := if_pos rfl

theorem setValue_of_not_mem {i j : Reg} {l : List Reg} (hi : i ∉ l) (hj : j ∈ l) (v : Word) (value : Reg → Word) :
    setValue i v value j = value j :=
  if_neg fun h : j = i => hi (h ▸ hj)

/-- A value given to a register outside a list changes no pair of the list. -/
theorem map_setValue_of_not_mem {i : Reg} {l : List Reg} (hi : i ∉ l) (v : Word) (value : Reg → Word) :
    l.map (fun j => (j, setValue i v value j)) = l.map fun j => (j, value j) :=
  List.map_congr_left fun j hj => by rw [setValue_of_not_mem hi hj]

/-- The reads of an LDM: where all are served, register `i` gets the word at its place, and the cache and the draws alone
change. -/
theorem readMany_effect {l : List Reg} {a : Word} {place : Reg → Word} {s : State} (hl : l.Nodup)
    (hplaced : placed l a place) (hf : ∀ i ∈ l, busFault s.cfg .word (place i) = none) (hw : Config.wf s.cfg)
    (hc : cacheCoherent s.cfg s.mem s.cache) :
    ∃ (value : Reg → Word) (c : Cache) (d : Nat),
      readMany l a s = .next (l.map fun i => (i, value i), { s with cache := c, draws := d }) ∧
      ∀ i ∈ l, (place i).msb = false → value i = wordAt s.mem ((place i).toNat / 4 * 4) := by
  induction l generalizing a s with
  | nil => exact ⟨fun _ => 0, s.cache, s.draws, rfl, by simp⟩
  | cons i l ih =>
    obtain ⟨hi, hl⟩ := List.nodup_cons.mp hl
    obtain rfl := placed_head hplaced
    obtain ⟨hfi, hf⟩ := List.forall_mem_cons.mp hf
    obtain ⟨value, c, d, hread, hvalue⟩ := ih (s := (busWord (alignWord (place i)) s).2) hl (placed_tail hplaced)
      (by simpa using hf) (by simpa using hw) (by simpa using busWord_keeps_coherent hw hc (place i))
    refine ⟨setValue i (busWord (alignWord (place i)) s).1 value, c, d, ?_,
      List.forall_mem_cons.mpr ⟨fun hm => ?_, fun j hj hm => ?_⟩⟩
    · simp only [readMany, busRead_alignWord hfi, andThen_next, hread, List.map_cons, setValue_self,
        map_setValue_of_not_mem hi]
      rw [busWord_frame]
    · obtain ⟨hword, -⟩ := busWord_coherent hw hc ((alignWord_msb _).trans hm) (alignWord_mod_four _)
      rw [setValue_self, hword, alignWord_toNat]
    · rw [setValue_of_not_mem hi hj, hvalue j hj hm, busWord_mem]

/-! The registers -/

theorem writeBank_frame (b : Bank) (i : Reg) (v : Word) (s : State) :
    writeBank b i v s = { s with regs := (writeBank b i v s).regs } := by
  unfold writeBank
  split <;> rfl

theorem writeBack_frame (rn : Reg) (wb : Option Word) (s : State) :
    writeBack rn wb s = { s with regs := (writeBack rn wb s).regs } := by
  cases wb with
  | none => rfl
  | some v => exact writeBank_frame ..

/-- The loaded registers of a bank hold their values; the other registers and the rest of the state stay. -/
theorem assignMany_effect (b : Bank) (value : Reg → Word) (l : List Reg) (s : State) :
    ∃ r : Vector Word 30, assignMany b (l.map fun i => (i, value i)) s = { s with regs := r } ∧
      (∀ i ∈ l, ∀ q, phys b i = some q → r[q] = value i) ∧
      ∀ q : Fin 30, (∀ i ∈ l, phys b i ≠ some q) → r[q] = s.regs[q] := by
  induction l generalizing s with
  | nil => exact ⟨s.regs, rfl, by simp, fun _ _ => rfl⟩
  | cons i l ih =>
    obtain ⟨r, heq, hloaded, hother⟩ := ih (writeBank b i (value i) s)
    refine ⟨r, heq.trans (by rw [writeBank_frame]), List.forall_mem_cons.mpr ⟨fun q hq => ?_, hloaded⟩, fun q hq => ?_⟩
    · rcases Decidable.em (i ∈ l) with hi | hi
      · exact hloaded i hi q hq
      · rw [hother q fun j hj e => hi (phys_injective hq e ▸ hj), writeBank_get, if_pos hq]
    · obtain ⟨hi, hq⟩ := List.forall_mem_cons.mp hq
      rw [hother q hq, writeBank_get, if_neg hi]

theorem loadedPc_map (value : Reg → Word) (l : List Reg) :
    loadedPc (l.map fun i => (i, value i)) = if 15 ∈ l then some (value 15) else none := by
  induction l with
  | nil => rfl
  | cons i l ih =>
    rw [List.map_cons, loadedPc, ih]
    rcases Decidable.em (i = 15) with rfl | hi
    · simp
    · simp [hi, Ne.symm hi]

/-! The instruction -/

/-- What an LDM makes of the registers: a listed one whose place is in memory holds the word there (R460), one not listed
is as before, but for the base as W says (R464). -/
abbrev registersLoaded (m : BlockMode) (w : Bool) (rn : Reg) (list : BitVec 16) (b : Bank) (s : State)
    (r : Vector Word 30) : Prop :=
  (∀ i : Reg, list.getLsbD i.val = true → (registerWord m rn list s i).msb = false → ∀ q, phys b i = some q →
    r[q] = wordAt s.mem ((registerWord m rn list s i).toNat / 4 * 4)) ∧
  ∀ q : Fin 30, (∀ i : Reg, list.getLsbD i.val = true → phys b i ≠ some q) →
    r[q] = if w = true ∧ phys (modeBank s.cpsr.mode) rn = some q then tableFinal m (readReg s rn) (popcount list)
      else s.regs[q]

/-- An LDM whose words are all served comes to its end with the registers loaded, and the pc's value read if R15 is
listed. -/
theorem loadMultiple_effect {m : BlockMode} (sf w : Bool) {rn : Reg} {list : BitVec 16} {s : State}
    (hw : Config.wf s.cfg) (hc : cacheCoherent s.cfg s.mem s.cache)
    (hf : ∀ k, k < popcount list → busFault s.cfg .word (blockWord m rn list s k) = none) :
    ∃ (pcValue : Word) (r : Vector Word 30) (c : Cache) (d : Nat),
      loadMultiple m sf w rn list s = finishLdm sf (if 15 ∈ listed list then some pcValue else none)
        { prefetch s with regs := r, cache := c, draws := d } ∧
      (15 ∈ listed list → (blockWord m rn list s (popcount list - 1)).msb = false →
        pcValue = wordAt s.mem ((blockWord m rn list s (popcount list - 1)).toNat / 4 * 4)) ∧
      registersLoaded m w rn list (blockBank s (sf && !list.getLsbD 15)) s r := by
  obtain ⟨value, c, d, hread, hvalue⟩ := readMany_effect (s := prefetch s) (listed_nodup list)
    (placed_registerWord m w rn list s) (by simpa using fun i hi => hf _ (listRank_lt hi)) (by simpa using hw)
    (by simpa using prefetch_cacheCoherent hw hc)
  rw [prefetch_mem] at hvalue
  obtain ⟨r, hassign, hloaded, hother⟩ := assignMany_effect (blockBank s (sf && !list.getLsbD 15)) value (listed list)
    (writeBack rn (blockAddress m w rn list s).wb { prefetch s with cache := c, draws := d })
  refine ⟨value 15, r, c, d, ?_, fun h15 hm => ?_, fun i hi hm q hq => ?_, fun q hq => ?_⟩
  · simp only [loadMultiple, hread, andThen_next, transferBank_eq_blockBank, hassign, loadedPc_map]
    rw [writeBack_frame]
  · rw [← listRank_fifteen h15] at hm ⊢
    exact hvalue 15 h15 hm
  · rw [hloaded i (mem_listed.mpr hi) q hq, hvalue i (mem_listed.mpr hi) hm]
  · rw [hother q fun i hi => hq i (mem_listed.mp hi), ← baseResult_blockAddress]
    exact writeBack_get (u := { prefetch s with cache := c, draws := d }) (prefetch_regs s) (prefetch_cpsr s) rn _ q

/-- Each of the four LDMs is `loadMultiple` with its variant. -/
theorem exec_ldmForms {c : Cond} {sf w : Bool} {rn : Reg} {list : BitVec 16} {s : State} {f : Instr × BlockMode}
    (hp : condPassed c s.cpsr = true) (hu : restrictLdm sf w rn list = none) (h : f ∈ ldmForms c sf w rn list) :
    exec f.1 s = loadMultiple f.2 sf w rn list s := by
  simp only [ldmForms, List.mem_cons, List.not_mem_nil, or_false] at h
  rcases h with rfl | rfl | rfl | rfl <;> exact conditional_passed hu hp

/-- Settles O42: without R15 the loaded registers are the end of the instruction. -/
theorem loadMultipleResults : Obligations.LoadMultipleResults := by
  intro c sf w rn list s hp hu h15 hw hc f hform hf
  obtain ⟨pcValue, r, ca, d, heq, -, hregs⟩ := loadMultiple_effect sf w hw hc hf
  rw [if_neg (mt mem_listed.mp (ne_true_of_eq_false h15))] at heq
  rw [h15, Bool.not_false, Bool.and_true] at hregs
  obtain ⟨hloaded, hother⟩ := hregs
  refine ⟨_, (exec_ldmForms hp hu hform).trans heq, hloaded, hother, ?_⟩
  simp [sameBytes, keepsSpecial, keepsPort]

/-! R15 -/

/-- A restore depends on the SPSRs and the CPSR alone (10_state.md R56). -/
theorem restoreCpsr_congr {s t : State} (hspsr : t.spsr = s.spsr) (hcpsr : t.cpsr = s.cpsr) :
    restoreCpsr t = andThen (restoreCpsr s) fun u => .next { t with cpsr := u.cpsr } := by
  have hread : readSpsr t = readSpsr s := by rw [readSpsr, readSpsr, hspsr, hcpsr]
  cases h : readSpsr s with
  | none => simp only [restoreCpsr, hread, h, andThen_fault]
  | some v =>
    rw [restoreCpsr_of_readSpsr h, restoreCpsr_of_readSpsr (hread.trans h)]
    cases checkMode v <;> rfl

/-- Settles O43: with R15 the instruction ends as a control transfer to the aligned word, from the loaded registers, with
the CPSR as before or restored. -/
theorem loadMultipleIntoPc : Obligations.LoadMultipleIntoPc := by
  intro c sf w rn list s hp hu h15 hw hc f hform hf last post
  obtain ⟨v, r, ca, d, heq, hv, hregs⟩ := loadMultiple_effect sf w hw hc hf
  rw [if_pos (mem_listed.mpr h15)] at heq
  rw [h15, Bool.not_true, Bool.and_false] at hregs
  have hexec := (exec_ldmForms hp hu hform).trans heq
  have hpost (p : Psr) :
      post p (jump (alignWord v) { prefetch s with regs := r, cache := ca, draws := d, cpsr := p }) := by
    obtain ⟨hloaded, hother⟩ := hregs
    refine ⟨?_, ?_, fun hm => ?_, ?_, ?_⟩
    · simp only [jump_regs]
      exact hloaded
    · simp only [jump_regs]
      exact hother
    · rw [jump_pc, hv (mem_listed.mpr h15) hm, alignWord]
    · rw [jump_pc, alignWord_mod_four]
    · simp [sameBytes, keepsSpecial, keepsPort]
  have hrestore := restoreCpsr_congr (s := s) (t := { prefetch s with regs := r, cache := ca, draws := d })
    (prefetch_spsr s) (prefetch_cpsr s)
  refine ⟨?_, ?_, ?_⟩
  · rintro rfl
    refine ⟨_, hexec, ?_⟩
    simpa using hpost (prefetch s).cpsr
  · rintro rfl u hrest
    rw [hrest, andThen_next] at hrestore
    exact ⟨_, by rw [hexec, finishLdm, if_pos rfl, hrestore, andThen_next], hpost u.cpsr⟩
  · rintro rfl e hrest
    rw [hrest, andThen_fault] at hrestore
    rw [hexec, finishLdm, if_pos rfl, hrestore, andThen_fault]

end Sys2Proof.Machine
end

section
/-! SUPPORT. STM (46_block_transfer.md R461, R463 to R466, R472): words written one after another, in memory or to a
peripheral (20_memory.md R111, R118). -/

namespace Sys2Proof.Machine

/-- A word stored in memory is the word memory holds there. -/
theorem wordAt_of_storedBytes {s t : State} {a v : Word} (h : storedBytes s t .word a v) :
    wordAt t.mem (a.toNat / 4 * 4) = v := by
  obtain ⟨hbytes, -⟩ := h
  have hbyte (j : Nat) (hj : j < 4) : readByte t.mem (a.toNat / 4 * 4 + j) = byteOf v j := hbytes j hj
  rw [wordAt, hbyte 1 (by decide), hbyte 2 (by decide), hbyte 3 (by decide), ← Nat.add_zero (a.toNat / 4 * 4),
    hbyte 0 (by decide)]
  exact wordOfBytes_byteOf v

theorem wordAt_congr {m m' : Memory} {a : Nat} (h : ∀ x, a ≤ x → x < a + 4 → readByte m x = readByte m' x) :
    wordAt m a = wordAt m' a := by
  rw [wordAt, wordAt, h a (by omega) (by omega), h (a + 1) (by omega) (by omega), h (a + 2) (by omega) (by omega),
    h (a + 3) (by omega) (by omega)]

/-- A store of a word touches no byte of another word. -/
theorem storeTouches_otherWord {a b : Word} (h : a.toNat / 4 ≠ b.toNat / 4) {x : Nat} (hlo : a.toNat / 4 * 4 ≤ x)
    (hhi : x < a.toNat / 4 * 4 + 4) : storeTouches .word b x = false := by
  simp only [storeTouches, Bool.and_eq_false_iff, decide_eq_false_iff_not]
  change ¬ b.toNat / 4 * 4 ≤ x ∨ ¬ x < b.toNat / 4 * 4 + 4
  omega

/-- The places of a list of at most 16 registers are in distinct words. -/
theorem placed_distinctWords {l : List Reg} {a : Word} {place : Reg → Word} (h : placed l a place)
    (hlen : l.length ≤ 16) : l.Pairwise fun i j => (place i).toNat / 4 ≠ (place j).toNat / 4 := by
  rw [List.pairwise_iff_getElem]
  intro i j hi hj hij
  rw [h i _ (List.getElem?_eq_getElem hi), h j _ (List.getElem?_eq_getElem hj)]
  simp only [BitVec.toNat_add, BitVec.toNat_ofNat]
  omega

/-- Words written at the places of a list of registers: those in memory are there, those at a peripheral are events in
order, every other byte is as before. -/
structure WordsStored (l : List Reg) (place v : Reg → Word) (s t : State) : Prop where
  words : ∀ i ∈ l, (place i).msb = false → wordAt t.mem ((place i).toNat / 4 * 4) = v i
  events : t.periphWrites = s.periphWrites ++
    l.filterMap fun i => if (place i).msb then some (wordEvent (place i) (v i)) else none
  others : ∀ x, (∀ i ∈ l, (place i).msb = false → storeTouches .word (place i) x = false) →
    readByte t.mem x = readByte s.mem x

theorem periphEvent_word (a v : Word) : periphEvent .word a v = wordEvent a v := rfl

/-- One word stored, then those of the rest of the list, which are other words. -/
theorem WordsStored.cons {i : Reg} {l : List Reg} {place v : Reg → Word} {s t : State} (hm : Memory.wf s.mem)
    (hdistinct : ∀ j ∈ l, (place i).toNat / 4 ≠ (place j).toNat / 4)
    (h : WordsStored l place v (storeEffect .word (place i) (v i) s) t) : WordsStored (i :: l) place v s t := by
  obtain ⟨hwords, hevents, hothers⟩ := h
  obtain ⟨hmemory, hperipheral⟩ :=
    writes_of_storeEffect (t := storeEffect .word (place i) (v i) s) hm (a := place i) (v := v i) rfl rfl
  refine ⟨List.forall_mem_cons.mpr ⟨fun hi => ?_, hwords⟩, ?_, fun x hx => ?_⟩
  · obtain ⟨hstored, -⟩ := hmemory hi
    rw [← wordAt_of_storedBytes hstored]
    exact wordAt_congr fun x hlo hhi => hothers x fun j hj _ => storeTouches_otherWord (hdistinct j hj) hlo hhi
  · rw [hevents]
    cases hi : (place i).msb with
    | false => simp [hi]
    | true => simp [hi, periphEvent_word]
  · obtain ⟨hxi, hx⟩ := List.forall_mem_cons.mp hx
    rw [hothers x hx]
    cases hi : (place i).msb with
    | false =>
      obtain ⟨⟨-, hsame⟩, -⟩ := hmemory hi
      exact hsame x (hxi hi)
    | true =>
      obtain ⟨hsame, -⟩ := hperipheral hi
      exact hsame x

/-- What stores may change: memory, the cache and the peripheral events. -/
abbrev storesOnly (s t : State) : Prop := t = { s with mem := t.mem, cache := t.cache, periphWrites := t.periphWrites }

theorem storesOnly_trans {s u t : State} (hu : storesOnly s u) (ht : storesOnly u t) : storesOnly s t :=
  ht.trans (congrArg (fun x : State => { x with mem := t.mem, cache := t.cache, periphWrites := t.periphWrites }) hu)

theorem storeEffect_storesOnly (w : Width) (a v : Word) (s : State) : storesOnly s (storeEffect w a v s) := by
  unfold storesOnly storeEffect
  dsimp only
  split <;> rfl

/-- The writes of an STM: where all are served, the words are stored, and nothing else changes. -/
theorem writeMany_effect {l : List Reg} {a : Word} {place v : Reg → Word} {s : State} (hm : Memory.wf s.mem)
    (hplaced : placed l a place) (hdistinct : l.Pairwise fun i j => (place i).toNat / 4 ≠ (place j).toNat / 4)
    (hf : ∀ i ∈ l, storeFault s.cfg s.pc .word (place i) = none) :
    ∃ t, writeMany (l.map fun i => (i, v i)) a s = .next t ∧ WordsStored l place v s t ∧ storesOnly s t := by
  induction l generalizing a s with
  | nil => exact ⟨s, rfl, ⟨by simp, by simp, fun _ _ => rfl⟩, rfl⟩
  | cons i l ih =>
    obtain rfl := placed_head hplaced
    obtain ⟨hi, hdistinct⟩ := List.pairwise_cons.mp hdistinct
    obtain ⟨hfi, hf⟩ := List.forall_mem_cons.mp hf
    have hwrite : busWrite .word (place i) (v i) s = .next (storeEffect .word (place i) (v i) s) :=
      (busWrite_eq_next _).mpr ⟨hfi, rfl⟩
    obtain ⟨t, hrest, hstored, honly⟩ := ih (storeEffect_wf hm .word (place i) (v i)) (placed_tail hplaced) hdistinct
      (by simpa using hf)
    exact ⟨t, by rw [List.map_cons, writeMany, hwrite, andThen_next, hrest], hstored.cons hm hi,
      storesOnly_trans (storeEffect_storesOnly ..) honly⟩

/-- The value an STM stores for a register, said by its number (R461, R466). -/
theorem storeValue_blockBank (s : State) (user : Bool) (i : Reg) : storeValue s (blockBank s user) i =
    if i = 15 then storedWord s 15 else readBank s (blockBank s user) i := by
  rcases Decidable.em (i = 15) with rfl | hne
  · rw [if_pos rfl, ← storeValue_eq_storedWord, storeValue, storeValue, phys_fifteen, phys_fifteen]
  · obtain ⟨q, hq⟩ := phys_isSome (b := blockBank s user) hne
    rw [if_neg hne, storeValue, readBank, hq]

/-- Each of the four STMs is `storeMultiple` with its variant. -/
theorem exec_stmForms {c : Cond} {sf w : Bool} {rn : Reg} {list : BitVec 16} {s : State} {f : Instr × BlockMode}
    (hp : condPassed c s.cpsr = true) (hu : restrictStm sf w rn list = none) (h : f ∈ stmForms c sf w rn list) :
    exec f.1 s = storeMultiple f.2 sf w rn list s := by
  simp only [stmForms, List.mem_cons, List.not_mem_nil, or_false] at h
  rcases h with rfl | rfl | rfl | rfl <;> exact conditional_passed hu hp

/-- Settles O44: every value is taken before the first write, the words are stored one after another, then the base is
written. -/
theorem storeMultipleResults : Obligations.StoreMultipleResults := by
  intro c sf w rn list s hp hu hm f hform hf
  have hplaced := placed_registerWord f.2 w rn list s
  obtain ⟨u, hwrite, ⟨hwords, hevents, hothers⟩, honly⟩ := writeMany_effect (s := prefetch s)
    (v := fun i => storeValue s (transferBank s sf) i) (by simpa using hm) hplaced
    (placed_distinctWords hplaced (listed_length_le list)) (by simpa using fun i hi => hf _ (listRank_lt hi))
  simp only [transferBank_eq_blockBank, storeValue_blockBank] at hwords hevents
  have hexec := exec_stmForms hp hu hform
  rw [storeMultiple, hwrite, andThen_next] at hexec
  refine ⟨_, hexec, fun i hi hmem => ?_, ?_, fun x hx => ?_, fun q => ?_, ?_⟩
  · simpa using hwords i (mem_listed.mpr hi) hmem
  · rw [advance_periphWrites, writeBack_periphWrites, hevents, prefetch_periphWrites, listed, List.filterMap_filter]
    refine congrArg _ (congrArg (List.filterMap · _) (funext fun i => ?_))
    cases list.getLsbD i.val <;> rfl
  · simpa using hothers x fun i hi => hx _ (listRank_lt hi)
  · rw [advance_regs, ← baseResult_blockAddress]
    exact writeBack_get ((congrArg State.regs honly).trans (prefetch_regs s))
      ((congrArg State.cpsr honly).trans (prefetch_cpsr s)) rn _ q
  · rw [honly]
    simp [keepsSpecial, keepsPort]

end Sys2Proof.Machine
end

section
/-! SUPPORT. How User mode is left (60_exceptions.md R571): no operation of a meaning writes the mode there, but for
the entry of an exception. -/

namespace Sys2Proof.Machine

/-- From `s` in User mode: User mode still, or the entry of an exception (R550, R571). -/
abbrev userOrEntered (s t : State) : Prop :=
  t.cpsr.mode = .usr ∨ ∃ e, isEntry e ∧ t.cpsr.mode = excMode e ∧ t.pc = vector e ∧
    readSpsr t = some (psrWord s.cpsr) ∧ t.cpsr.i = true

/-! The mode is none of the flags -/

@[simp] theorem setAluFlags_mode (op : AluOp) (sf : Bool) (a : Word) (b : Word × Bool) (s : State) :
    (setAluFlags op sf a b s).cpsr.mode = s.cpsr.mode := by
  cases sf with
  | false => rfl
  | true => exact aluFlags_mode ..

@[simp] theorem setMulFlags_mode (sf : Bool) (r : Word) (s : State) :
    (setMulFlags sf r s).cpsr.mode = s.cpsr.mode := by cases sf <;> rfl

@[simp] theorem setLongMulFlags_mode (sf : Bool) (r : DWord) (s : State) :
    (setLongMulFlags sf r s).cpsr.mode = s.cpsr.mode := by cases sf <;> rfl

@[simp] theorem mrcWrite_mode (rd : Reg) (v : Word) (s : State) :
    (mrcWrite rd v s).cpsr.mode = s.cpsr.mode := by
  unfold mrcWrite
  split
  · rfl
  · rw [writeReg_cpsr]

@[simp] theorem msrFlags_mode (mask : BitVec 4) (v : Word) (s : State) :
    (msrFlags mask v s).cpsr.mode = s.cpsr.mode := by
  unfold msrFlags
  split <;> rfl

section
variable {s t u : State}

/-! The ways an instruction ends -/

theorem complete_user (h : complete u = .next t) (hu : u.cpsr.mode = .usr) : userOrEntered s t := by
  cases h
  exact .inl (by simpa using hu)

theorem jump_user (a : Word) (hu : u.cpsr.mode = .usr) : userOrEntered s (jump a u) :=
  .inl (by simpa using hu)

/-- The entry of an exception: what R571 leaves open. -/
theorem raiseException_entered {e : Exc} (he : isEntry e) (h : raiseException e u = .next t) (hu : u.cpsr = s.cpsr) :
    userOrEntered s t := by
  cases h
  exact .inr ⟨e, he, by simp, by simp, by rw [readSpsr_enterException, hu], by simp⟩

/-- User mode has no SPSR to restore the CPSR from (10_state.md R55). -/
theorem restoreCpsr_user_ne_next (hu : u.cpsr.mode = .usr) : restoreCpsr u ≠ .next t := by
  simp [restoreCpsr, readSpsr_eq_none.mpr (.inl hu)]

/-- A control transfer with the CPSR restored stops in User mode; the plain one keeps the mode. -/
theorem restoringJump_user {a : Word} {sf : Bool} (hu : u.cpsr.mode = .usr)
    (h : (if sf then andThen (restoreCpsr u) fun v => .next (jump a v) else .next (jump a u)) = .next t) :
    userOrEntered s t := by
  split at h
  · obtain ⟨v, hv, -⟩ := andThen_eq_next.mp h
    exact absurd hv (restoreCpsr_user_ne_next hu)
  · cases h
    exact jump_user a hu

theorem writePc_user {res : Word} {sf : Bool} (hu : u.cpsr.mode = .usr) (h : writePc res sf u = .next t) :
    userOrEntered s t := by
  unfold writePc at h
  split at h
  · cases h
  · exact restoringJump_user hu h

theorem loadPc_user {a v : Word} (hu : u.cpsr.mode = .usr) (h : loadPc a v u = .next t) : userOrEntered s t := by
  unfold loadPc at h
  split at h
  · cases h
  · cases h
    exact jump_user _ hu

theorem finishLdm_user {sf : Bool} {target : Option Word} (hu : u.cpsr.mode = .usr)
    (h : finishLdm sf target u = .next t) : userOrEntered s t := by
  unfold finishLdm at h
  split at h
  · exact complete_user h hu
  · exact restoringJump_user hu h

/-! The repeated accesses -/

theorem readMany_cpsr {l : List Reg} {a : Word} {r : List (Reg × Word) × State} (h : readMany l a s = .next r) :
    r.2.cpsr = s.cpsr := by
  induction l generalizing a s r with
  | nil => cases h; rfl
  | cons i l ih =>
    simp only [readMany, andThen_eq_next, busRead_eq_next] at h
    obtain ⟨v, ⟨-, rfl⟩, q, hq, h⟩ := h
    cases h
    simpa using ih hq

theorem writeMany_cpsr {l : List (Reg × Word)} {a : Word} (h : writeMany l a s = .next u) : u.cpsr = s.cpsr := by
  induction l generalizing a s with
  | nil => cases h; rfl
  | cons x l ih =>
    simp only [writeMany, andThen_eq_next, busWrite_eq_next] at h
    obtain ⟨v, ⟨-, rfl⟩, h⟩ := h
    simpa using ih h

@[simp] theorem assignMany_cpsr (b : Bank) (l : List (Reg × Word)) (s : State) :
    (assignMany b l s).cpsr = s.cpsr := by
  induction l generalizing s with
  | nil => rfl
  | cons x l ih => simp [assignMany, ih]

theorem swiHook_cpsr {cur : Word} {key : Nat} (h : swiHook cur key s = .next u) : u.cpsr = s.cpsr := by
  unfold swiHook at h
  dsimp only at h
  split at h
  · cases h
  · cases h
    simp

/-- In User mode an MSR leaves the mode alone, and there is no SPSR (47_psr_transfer.md R493, R495). -/
theorem msrWrite_user {r : PsrSel} {mask : BitVec 4} {v : Word} (hs : s.cpsr.mode = .usr)
    (h : msrWrite r mask v s = .next u) : u.cpsr.mode = .usr := by
  cases r with
  | cpsr =>
    simp only [msrWrite, msrControl, msrFlags_mode, hs, privileged, Bool.and_false, Bool.false_eq_true, if_false] at h
    cases h
    simpa using hs
  | spsr =>
    simp only [msrWrite, readSpsr_eq_none.mpr (.inl hs)] at h
    cases h

/-! The meanings, from User mode -/

section
variable (hs : s.cpsr.mode = .usr)
include hs

theorem conditional_user {c : Cond} {why : Option Unpredictable} {k : State → Result}
    (h : conditional c why s k = .next t) (hk : k s = .next t → userOrEntered s t) : userOrEntered s t := by
  obtain ⟨-, ⟨-, rfl⟩ | ⟨-, h⟩⟩ := conditional_cases s h
  · exact .inl (by simpa using hs)
  · exact hk h

/-- A handshake waits, traps, or goes on in User mode (48_coprocessor.md R512). -/
theorem handshake_user {n : Fin 16} {w : Word} {go : State → Result} (h : handshake n w s go = .next t)
    (hgo : ∀ u, u.cpsr.mode = .usr → go u = .next t → userOrEntered s t) : userOrEntered s t := by
  obtain ⟨-, rfl⟩ | ⟨-, h⟩ | ⟨-, h⟩ := handshake_cases s h
  · exact .inl (by simpa using hs)
  · exact raiseException_entered (e := .undefined) nofun h (by simp)
  · exact hgo _ (by simpa using hs) h

theorem dataProcessing_user {op : AluOp} {sf : Bool} {a : Word} {rd : Reg} {op2 : Operand2}
    (h : dataProcessing op sf a rd op2 s = .next t) : userOrEntered s t := by
  unfold dataProcessing at h
  dsimp only at h
  split at h
  · exact writePc_user hs h
  · exact complete_user h (by simpa using hs)

theorem load_user {w : Width} {x : Extend} {a : Address} {rn rd : Reg} (h : load w x a rn rd s = .next t) :
    userOrEntered s t := by
  simp only [load, andThen_eq_next, busRead_eq_next] at h
  obtain ⟨r, ⟨-, rfl⟩, h⟩ := h
  split at h
  · exact loadPc_user (by simpa using hs) h
  · exact complete_user h (by simpa using hs)

theorem store_user {w : Width} {a : Address} {rn rd : Reg} (h : store w a rn rd s = .next t) : userOrEntered s t := by
  simp only [store, andThen_eq_next, busWrite_eq_next] at h
  obtain ⟨r, ⟨-, rfl⟩, h⟩ := h
  exact complete_user h (by simpa using hs)

theorem swap_user {w : Width} {rn rd rm : Reg} (h : swap w rn rd rm s = .next t) : userOrEntered s t := by
  simp only [swap, andThen_eq_next, busRead_eq_next, busWrite_eq_next] at h
  obtain ⟨r, ⟨-, rfl⟩, v, ⟨-, rfl⟩, h⟩ := h
  exact complete_user h (by simpa using hs)

theorem loadMultiple_user {m : BlockMode} {sf w : Bool} {rn : Reg} {list : BitVec 16}
    (h : loadMultiple m sf w rn list s = .next t) : userOrEntered s t := by
  obtain ⟨r, hr, h⟩ := andThen_eq_next.mp h
  exact finishLdm_user (by simpa [readMany_cpsr hr] using hs) h

theorem storeMultiple_user {m : BlockMode} {sf w : Bool} {rn : Reg} {list : BitVec 16}
    (h : storeMultiple m sf w rn list s = .next t) : userOrEntered s t := by
  obtain ⟨u, hu, h⟩ := andThen_eq_next.mp h
  exact complete_user h (by simpa [writeMany_cpsr hu] using hs)

theorem execSwi_user {c : Cond} {comment : BitVec 24} (h : execSwi c comment s = .next t) : userOrEntered s t := by
  refine conditional_user hs h fun h => ?_
  split at h
  · obtain ⟨u, hu, h⟩ := andThen_eq_next.mp h
    exact complete_user h (by simpa [swiHook_cpsr hu] using hs)
  · exact raiseException_entered (e := .swi) nofun h rfl

theorem execMrsSpsr_user {c : Cond} {rd : Reg} (h : execMrsSpsr c rd s = .next t) : userOrEntered s t := by
  refine conditional_user hs h fun h => ?_
  rw [readSpsr_eq_none.mpr (.inl hs)] at h
  cases h

theorem msr_user {r : PsrSel} {mask : BitVec 4} {v : Word}
    (h : andThen (msrWrite r mask v (prefetch s)) complete = .next t) : userOrEntered s t := by
  obtain ⟨u, hu, h⟩ := andThen_eq_next.mp h
  exact complete_user h (msrWrite_user (by simpa using hs) hu)

theorem execLdc_user {c : Cond} {p u n w : Bool} {rn : Reg} {crd : BitVec 4} {cp : Fin 16} {imm8 : Byte}
    (h : execLdc c p u n w rn crd cp imm8 s = .next t) : userOrEntered s t := by
  refine conditional_user hs h fun h => handshake_user hs h fun v hv h => ?_
  obtain ⟨q, hq, h⟩ := andThen_eq_next.mp h
  obtain ⟨-, -, -, hcpsr, -⟩ := loadTransfer_frame _ hq
  exact complete_user h (by simpa [hcpsr] using hv)

theorem execStc_user {c : Cond} {p u n w : Bool} {rn : Reg} {crd : BitVec 4} {cp : Fin 16} {imm8 : Byte}
    (h : execStc c p u n w rn crd cp imm8 s = .next t) : userOrEntered s t := by
  refine conditional_user hs h fun h => handshake_user hs h fun v hv h => ?_
  obtain ⟨q, hq, h⟩ := andThen_eq_next.mp h
  obtain ⟨-, -, -, hcpsr, -⟩ := storeTransfer_frame _ hq
  exact complete_user h (by simpa [hcpsr] using hv)

/-- Every instruction, from User mode, keeps it or enters an exception. -/
theorem exec_user {i : Instr} (h : exec i s = .next t) : userOrEntered s t := by
  cases i
  all_goals dsimp only [exec] at h
  case b | bl =>
    refine conditional_user hs h fun h => ?_
    cases h
    exact jump_user _ (by simpa using hs)
  case swi => exact execSwi_user hs h
  case mul | mla | umull | umlal | smull | smlal =>
    exact conditional_user hs h fun h => complete_user h (by simpa using hs)
  case and | eor | sub | rsb | add | adc | sbc | rsc | orr | mov | bic | mvn =>
    exact conditional_user hs h (dataProcessing_user hs)
  case tst | teq | cmp | cmn => exact conditional_user hs h fun h => complete_user h (by simpa using hs)
  case ldr | ldrb | ldrt | ldrbt | ldrh | ldrsb | ldrsh => exact conditional_user hs h (load_user hs)
  case str | strb | strt | strbt | strh => exact conditional_user hs h (store_user hs)
  case ldmia | ldmib | ldmda | ldmdb => exact conditional_user hs h (loadMultiple_user hs)
  case stmia | stmib | stmda | stmdb => exact conditional_user hs h (storeMultiple_user hs)
  case swp | swpb => exact conditional_user hs h (swap_user hs)
  case mrsCpsr => exact conditional_user hs h fun h => complete_user h (by simpa using hs)
  case mrsSpsr => exact execMrsSpsr_user hs h
  case msrReg | msrImm => exact conditional_user hs h (msr_user hs)
  case cdp | mcr | mrc =>
    exact conditional_user hs h fun h => handshake_user hs h fun u hu h => complete_user h (by simpa using hu)
  case ldc => exact execLdc_user hs h
  case stc => exact execStc_user hs h
  case undefined => exact raiseException_entered (e := .undefined) nofun h rfl

end
end

/-- Settles O19: in User mode no operation writes the mode, a restore of the CPSR and an SPSR's MSR stop, and what is
left is the entry of an exception. -/
theorem userModeIsLeftByException : Obligations.UserModeIsLeftByException := fun _ _ _ hs => exec_user hs

end Sys2Proof.Machine
end

section
/-! SUPPORT. The entry of an exception: all it writes and all it keeps (60_exceptions.md R540, R550, R551, R559), and
the synchronous traps (R552, R553). -/

namespace Sys2Proof.Machine

/-- What an entry leaves alone: every register but R14 of the mode entered, every SPSR but that mode's, and the rest. -/
abbrev entryFrame (b : Bank) (s t : State) : Prop :=
  (∀ q : Fin 30, phys b 14 ≠ some q → t.regs[q] = s.regs[q]) ∧
  (∀ k : Fin 5, spsrIndex b ≠ some k → t.spsr[k] = s.spsr[k]) ∧
  sameBytes s t ∧ keepsSpecial { s with spsr := t.spsr } t ∧ keepsPort s t

/-- The link register of the mode entered holds the return address (R550). -/
theorem readReg_enterException (e : Exc) (lr : Word) (s : State) : readReg (enterException e lr s) 14 = lr := by
  obtain ⟨q, hq⟩ := phys_isSome (b := modeBank (excMode e)) (i := 14) (by decide)
  have hregs := saveState_regs e lr s q
  rw [if_pos hq] at hregs
  simpa [readReg, readBank, enterException, hq] using hregs

/-- An entry keeps everything its frame names. -/
theorem enterException_frame (e : Exc) (lr : Word) (s : State) :
    entryFrame (modeBank (excMode e)) s (enterException e lr s) := by
  refine ⟨fun q hq => ?_, fun k hk => ?_, ?_⟩
  · simpa [enterException, hq] using saveState_regs e lr s q
  · simpa [enterException, hk] using saveState_spsr e lr s k
  · simp [sameBytes, keepsSpecial, keepsPort]

/-- F is set by FIQ, and by Reset, which is not entered this way (R559). -/
theorem entryPsr_eq {e : Exc} (he : isEntry e) (p : Psr) :
    entryPsr e p = { p with mode := excMode e, i := true, f := decide (e = .fiq) || p.f } := by
  cases e
  case reset => exact absurd rfl he
  all_goals rfl

/-- Settles O10: the entry's writes, then its frame. -/
theorem exceptionEntry : Obligations.ExceptionEntry := by
  rintro e lr s t he rfl
  refine ⟨?_, readSpsr_enterException e lr s, readReg_enterException e lr s, enterException_pc s e lr,
    enterException_frame e lr s⟩
  rw [enterException_cpsr, entryPsr_eq he]

/-- The post-state of a trap: the CPSR it sets, its vector, the return address, the old CPSR saved, its frame. -/
abbrev trapEffect (s : State) (b : Bank) (p : Psr) (vec : Word) (t : State) : Prop :=
  t.cpsr = p ∧ t.pc = vec ∧ readReg t 14 = s.pc + 4 ∧ readSpsr t = some (psrWord s.cpsr) ∧ entryFrame b s t

/-- The traps return to the next instruction (R552, R553). -/
theorem raiseException_effect (e : Exc) (s : State) : ∃ t, raiseException e s = .next t ∧
    trapEffect s (modeBank (excMode e)) (entryPsr e s.cpsr) (vector e) t :=
  ⟨_, rfl, enterException_cpsr s e _, enterException_pc s e _, readReg_enterException e _ s,
    readSpsr_enterException e _ s, enterException_frame e _ s⟩

/-- An SWI without a callback is a trap (42_branch_swi.md R319). -/
theorem exec_swi_unregistered {c : Cond} {comment : BitVec 24} {s : State} (hp : condPassed c s.cpsr = true)
    (hr : swiRegistered s.cfg (swiKey comment) = false) : exec (.swi c comment) s = raiseException .swi s := by
  change execSwi c comment s = _
  rw [execSwi, conditional_passed rfl hp, if_neg (ne_true_of_eq_false hr)]

/-- Settles O13: both are `raise`, the undefined word's without a test of its condition. -/
theorem synchronousTraps : Obligations.SynchronousTraps := by
  intro s post
  refine ⟨fun w => raiseException_effect .undefined s, fun c comment hp hr => ?_⟩
  rw [completes, exec_swi_unregistered hp hr]
  exact raiseException_effect .swi s

end Sys2Proof.Machine
end

section
/-! SUPPORT. The interrupt latch and the interrupt taken at a boundary (60_exceptions.md R556, R558, R560 to R563;
40_sequencer.md R229, R231, R240). -/

namespace Sys2Proof.Machine

/-- The latch after a sample of the lines (R560): an edge is recorded while its mask bit is clear. -/
def latched (l : Lines) (s : State) : IrqLatch :=
  { prevNIRQ := l.nIRQ, prevNFIQ := l.nFIQ,
    irqPending := s.irq.irqPending || (s.irq.prevNIRQ && !l.nIRQ && !s.cpsr.i),
    fiqPending := s.irq.fiqPending || (s.irq.prevNFIQ && !l.nFIQ && !s.cpsr.f) }

theorem latchInterrupts_eq (l : Lines) (s : State) : latchInterrupts l s = { s with irq := latched l s } := rfl

/-- A sample that is no reset gives the levels and is used up (log entry 9). -/
theorem sampleInput_sampled {s : State} {l : Lines} {rest : List Input} (h : sampled s l rest) :
    sampleInput s = (false, { s with lines := l, inputs := rest }) := by
  obtain ⟨hs, rfl, rfl⟩ | ⟨x, hs, hx, rfl⟩ := h
  · simp only [sampleInput, hs]
    rw [← hs]
  · simp only [sampleInput, hs, hx]

/-- The start of a step runs the latch once, with the levels sampled (R560). -/
theorem beginStep_irq (s : State) : (beginStep s).irq = latched s.lines s := by
  have h : (beginStep s).irq = latched s.lines (flushIfRequested s) := by
    simp [beginStep, latchInterrupts_eq]
  rw [h, latched, flushIfRequested_irq, flushIfRequested_cpsr, latched]

theorem clearPending_irq_congr (e : Exc) {s t : State} (h : t.irq = s.irq) :
    (clearPending e t).irq = (clearPending e s).irq := by
  cases e <;> simp only [clearPending, h]

section
variable {s : State} {l : Lines} {rest : List Input}

/-- Whether a step takes an interrupt is settled by its sample and the latch (R229, R563). -/
theorem boundaryInterrupt_beginStep (h : sampled s l rest) :
    boundaryInterrupt (beginStep (sampleInput s).2) = boundaryInterrupt (latchInterrupts l s) := by
  simp only [boundaryInterrupt, interruptToTake, beginStep_irq, beginStep_cp, beginStep_cpsr, sampleInput_sampled h]
  rfl

/-- A taken interrupt is the step (R229, R556), with the whole of its entry: the return address is `nextAddr + 4`, the
flag taken is cleared. -/
theorem step_takesInterrupt {e : Exc} (h : sampled s l rest)
    (he : boundaryInterrupt (latchInterrupts l s) = some e) : ∃ t, step s = .next t ∧
      t.cpsr = entryPsr e s.cpsr ∧ t.pc = vector e ∧ readReg t 14 = s.pc + 4 ∧
      readSpsr t = some (psrWord s.cpsr) ∧ t.irq = (clearPending e (latchInterrupts l s)).irq ∧
      (∀ q : Fin 30, phys (modeBank (excMode e)) 14 ≠ some q → t.regs[q] = s.regs[q]) ∧
      (∀ k : Fin 5, spsrIndex (modeBank (excMode e)) ≠ some k → t.spsr[k] = s.spsr[k]) ∧
      t.inputs = rest ∧ t.lines = l ∧ sameBytes s t ∧ t.mul = s.mul ∧ t.periphWrites = s.periphWrites ∧
      t.cfg = s.cfg ∧ keepsPort s t := by
  rw [← boundaryInterrupt_beginStep h, sampleInput_sampled h] at he
  obtain ⟨hregs, hspsr, -⟩ := enterException_frame e (s.pc + 4)
    (clearPending e (beginStep { s with lines := l, inputs := rest }))
  refine ⟨enterException e (s.pc + 4) (clearPending e (beginStep { s with lines := l, inputs := rest })),
    ?_, by simp, by simp, readReg_enterException .., ?_, ?_, fun q hq => ?_, fun k hk => ?_, ?_⟩
  · simp [step, runStep, sampleInput_sampled h, he, takeInterrupt]
  · rw [readSpsr_enterException]
    simp
  · rw [enterException_irq]
    exact clearPending_irq_congr e (beginStep_irq _)
  · simpa using hregs q hq
  · simpa using hspsr k hk
  · simp [sameBytes, keepsPort]
end

/-- Settles O9: the latch is `latched`; at the boundary the two flags it leaves are looked at, FIQ's first. -/
theorem interruptsAreTaken : Obligations.InterruptsAreTaken := by
  refine ⟨fun l s => ?_, fun s l rest h => ?_⟩
  · refine ⟨latched l s, latchInterrupts_eq l s, rfl, rfl, ?_, ?_⟩
    all_goals simp [latched, and_assoc]
  intro fiq irq fiqNow irqNow post
  have htake (hreq : s.cp.request = false) : boundaryInterrupt (latchInterrupts l s) =
      if fiqNow then some .fiq else if irqNow then some .irq else none := by
    simp only [boundaryInterrupt, latchInterrupts_cp, hreq]
    rfl
  refine ⟨fun hreq hfiq => ?_, fun hreq hfiq hirq => ?_, fun hquiet => ?_⟩
  · exact step_takesInterrupt (e := .fiq) h (by simp [htake hreq, hfiq])
  · exact step_takesInterrupt (e := .irq) h (by simp [htake hreq, hfiq, hirq])
  · refine ⟨by rw [sampleInput_sampled h], ?_⟩
    rw [boundaryInterrupt_beginStep h]
    cases hreq : s.cp.request with
    | true => simp [boundaryInterrupt, hreq]
    | false =>
      obtain ⟨hfiq, hirq⟩ := hquiet.resolve_left (ne_true_of_eq_false hreq)
      simp [htake hreq, hfiq, hirq]

end Sys2Proof.Machine
end

section
/-! SUPPORT. The invariant after reset (70_reset_and_hazards.md R600). -/

namespace Sys2Proof.Machine

theorem standard_wf : Config.wf Config.standard := by
  refine ⟨?_, ?_, ?_, ?_, ?_, ?_, ?_, ?_, ?_, ?_, ?_, ?_, ?_, ?_, ?_⟩
  all_goals decide

theorem reset_poolForm : poolForm State.reset := by
  obtain ⟨hlen, hperm⟩ := seededPool_perm (n := Config.standard.maxInstLen) (by decide)
  exact ⟨hlen, by simpa [State.reset, unexecuted] using hperm⟩

/-- Settles O57: the pipe, memory and the cache are empty, the multiply unit is clear, and the pool is seeded. -/
theorem resetMeetsInvariant : Obligations.ResetMeetsInvariant := by
  refine ⟨standard_wf, by decide, nofun, nofun, by decide, by decide, .inr nofun, by decide, reset_poolForm⟩

end Sys2Proof.Machine
end

section
/-! SUPPORT. MRS and MSR (47_psr_transfer.md R490 to R495). -/

namespace Sys2Proof.Machine

/-- An instruction that prefetches and writes one register. -/
theorem registerEffect_writeReg (rd : Reg) (v : Word) (s : State) :
    registerEffect s rd v s.cpsr (advance (writeReg rd v (prefetch s))) := by
  refine ⟨fun q => ?_, ?_⟩
  · simpa using writeReg_get rd v (prefetch s) q
  · simp [sameBytes, keepsSpecial, keepsPort]

theorem restrictMrs_eq_none {rd : Reg} (h : rd ≠ 15) : restrictMrs rd = none := by simp [restrictMrs, firstReason, h]

theorem restrictMsrReg_eq_none {rm : Reg} (h : rm ≠ 15) : restrictMsrReg rm = none := by
  simp [restrictMsrReg, firstReason, h]

section
variable {c : Cond} {rd : Reg} {s : State} (hp : condPassed c s.cpsr = true) (hrd : rd ≠ 15)
include hp hrd

theorem exec_mrsCpsr : exec (.mrsCpsr c rd) s = complete (writeReg rd (psrWord s.cpsr) (prefetch s)) := by
  change execMrsCpsr c rd s = _
  rw [execMrsCpsr, conditional_passed (restrictMrs_eq_none hrd) hp]

theorem exec_mrsSpsr {v : Word} (hv : readSpsr s = some v) :
    exec (.mrsSpsr c rd) s = complete (writeReg rd v (prefetch s)) := by
  change execMrsSpsr c rd s = _
  rw [execMrsSpsr, conditional_passed (restrictMrs_eq_none hrd) hp, hv]

theorem exec_mrsSpsr_stops (hv : readSpsr s = none) : exec (.mrsSpsr c rd) s = .fault .noSpsr := by
  change execMrsSpsr c rd s = _
  rw [execMrsSpsr, conditional_passed (restrictMrs_eq_none hrd) hp, hv]
end

/-- Settles O45: both forms write the register with a status word, the SPSR's where there is one. -/
theorem readStatusRegisters : Obligations.ReadStatusRegisters := by
  intro c rd s hp hrd
  refine ⟨⟨_, exec_mrsCpsr hp hrd, registerEffect_writeReg rd _ s⟩, fun v hv => ?_, fun hm => ?_⟩
  · exact ⟨_, exec_mrsSpsr hp hrd hv, registerEffect_writeReg rd v s⟩
  · exact exec_mrsSpsr_stops hp hrd (readSpsr_eq_none.mpr hm)

/-! MSR -/

/-- The two forms of an MSR with the word each writes. -/
def msrForms (c : Cond) (r : PsrSel) (mask rot : BitVec 4) (imm8 : Byte) (rm : Reg) (s : State) :
    List (Instr × Word) :=
  [(.msrReg c r mask rm, readReg s rm),
   (.msrImm c r mask rot imm8, (imm8.setWidth 32 : Word).rotateRight (2 * rot.toNat))]

/-- Both forms are one write. -/
theorem exec_msrForms {c : Cond} {r : PsrSel} {mask rot : BitVec 4} {imm8 : Byte} {rm : Reg} {s : State}
    {f : Instr × Word} (hp : condPassed c s.cpsr = true) (hrm : rm ≠ 15)
    (h : f ∈ msrForms c r mask rot imm8 rm s) :
    exec f.1 s = andThen (msrWrite r mask f.2 (prefetch s)) complete := by
  simp only [msrForms, List.mem_cons, List.not_mem_nil, or_false] at h
  rcases h with rfl | rfl
  · change execMsrReg c r mask rm s = _
    rw [execMsrReg, conditional_passed (restrictMsrReg_eq_none hrm) hp]
  · change execMsrImm c r mask rot imm8 s = _
    rw [execMsrImm, conditional_passed rfl hp, rotatedImm]

theorem privileged_eq (m : Mode) : privileged m = decide (m ≠ .usr) := by cases m <;> rfl

theorem msrFlags_psr (mask : BitVec 4) (v : Word) (s : State) :
    (msrFlags mask v s).cpsr = if mask.getLsbD 3 then withFlags s.cpsr v else s.cpsr := by
  unfold msrFlags
  split <;> rfl

/-- The CPSR after an MSR to it, with its mode and masks given (R493). -/
def msrPsr (mask : BitVec 4) (v : Word) (m : Mode) (i f : Bool) (p : Psr) : Psr :=
  { (if mask.getLsbD 3 then withFlags p v else p) with mode := m, i := i, f := f }

section
variable {mask : BitVec 4} {v : Word} {s : State}

/-- R494: without the c bit, or in User mode, the mode and the masks stay. -/
theorem msrWrite_cpsr_flags (h : (mask.getLsbD 0 && decide (s.cpsr.mode ≠ .usr)) = false) :
    msrWrite .cpsr mask v s =
      .next { msrFlags mask v s with cpsr := msrPsr mask v s.cpsr.mode s.cpsr.i s.cpsr.f s.cpsr } := by
  have hpsr : msrPsr mask v s.cpsr.mode s.cpsr.i s.cpsr.f s.cpsr = (msrFlags mask v s).cpsr := by
    rw [msrFlags_psr, msrPsr]
    split <;> rfl
  rw [msrWrite, msrControl, msrFlags_mode, privileged_eq, if_neg (ne_true_of_eq_false h), hpsr]

/-- R493: in a privileged mode the c bit writes the mode and the masks, once the mode is checked. -/
theorem msrWrite_cpsr_control (h : (mask.getLsbD 0 && decide (s.cpsr.mode ≠ .usr)) = true) :
    msrWrite .cpsr mask v s = andThen (checkMode v) fun m =>
      .next { msrFlags mask v s with cpsr := msrPsr mask v m (v.getLsbD 7) (v.getLsbD 6) s.cpsr } := by
  rw [msrWrite, msrControl, msrFlags_mode, privileged_eq, if_pos h, msrFlags_psr]
  rfl

/-- R495: the bytes the mask selects. -/
theorem msrWrite_spsr {old : Word} (r : readSpsr s = some old) :
    msrWrite .spsr mask v s = .next (writeSpsr (modeBank s.cpsr.mode) (maskWord mask old v) s) := by
  rw [msrWrite, r]

theorem msrWrite_spsr_stops (r : readSpsr s = none) : msrWrite .spsr mask v s = .fault .noSpsr := by
  rw [msrWrite, r]
end

/-- What an MSR to the CPSR does: the CPSR and nothing else. -/
theorem flagsEffect_msrPsr (mask : BitVec 4) (v : Word) (p : Psr) (s : State) :
    flagsEffect s p (advance { msrFlags mask v (prefetch s) with cpsr := p }) := by
  simp [flagsEffect, sameBytes, keepsSpecial, keepsPort]

/-- Settles O46: the flags are written on their own; the mode, I and F once the mode is checked. -/
theorem writeCpsr : Obligations.WriteCpsr := by
  intro c mask rot imm8 rm s hp hrm f hf control post
  have hexec := exec_msrForms hp hrm hf
  have hcontrol : (mask.getLsbD 0 && decide ((prefetch s).cpsr.mode ≠ .usr)) = control := by rw [prefetch_cpsr]
  have hpost (m : Mode) (i fq : Bool) :
      post m i fq (advance { msrFlags mask f.2 (prefetch s) with cpsr := msrPsr mask f.2 m i fq s.cpsr }) := by
    obtain ⟨hregs, hcpsr, hframe⟩ := flagsEffect_msrPsr mask f.2 (msrPsr mask f.2 m i fq s.cpsr) s
    refine ⟨rfl, rfl, rfl, ?_, ?_, ?_, ?_, hregs, hframe⟩
    all_goals
      rw [hcpsr, msrPsr]
      split <;> rfl
  refine ⟨fun hc => ?_, fun hc ht => ?_, fun hc ht hm => ?_, fun m hc ht hm => ?_⟩
  · rw [msrWrite_cpsr_flags (hcontrol.trans hc), andThen_next] at hexec
    exact ⟨_, hexec, by simpa using hpost s.cpsr.mode s.cpsr.i s.cpsr.f⟩
  · rw [hexec, msrWrite_cpsr_control (hcontrol.trans hc), checkMode_thumb ht, andThen_fault, andThen_fault]
  · rw [hexec, msrWrite_cpsr_control (hcontrol.trans hc), checkMode_arm ht, hm, Option.elim_none, andThen_fault,
      andThen_fault]
  · rw [msrWrite_cpsr_control (hcontrol.trans hc), checkMode_arm ht, hm, Option.elim_some, andThen_next,
      andThen_next] at hexec
    exact ⟨_, hexec, by simpa using hpost m (f.2.getLsbD 7) (f.2.getLsbD 6)⟩

/-! The SPSR -/

/-- A bit of a word after a masked write is that of the written or of the old word, as its byte's mask bit says. -/
theorem maskWord_getLsbD (mask : BitVec 4) (old v : Word) {k : Nat} (h : k < 32) :
    (maskWord mask old v).getLsbD k = if mask.getLsbD (k / 8) then v.getLsbD k else old.getLsbD k := by
  have hbit (x : Word) : x.getLsbD k = (byteOf x (k / 8)).getLsbD (k % 8) := by
    rw [byteOf, BitVec.getLsbD_extractLsb', Nat.div_add_mod, decide_eq_true (Nat.mod_lt k (by decide)), Bool.true_and]
  rw [hbit, maskWord, byteOf_wordOfBytes (maskByte mask old v) (by omega), maskByte, hbit v, hbit old]
  split <;> rfl

/-- The SPSR of the current mode after a write. -/
theorem readSpsr_writeSpsr {s : State} {old : Word} (h : readSpsr s = some old) (v : Word) :
    readSpsr (writeSpsr (modeBank s.cpsr.mode) v s) = some v := by
  obtain ⟨k, hk, -⟩ := Option.map_eq_some_iff.mp h
  have hget := writeSpsr_get (modeBank s.cpsr.mode) v s k
  rw [if_pos hk] at hget
  simpa [readSpsr, hk] using hget

/-- Settles O47: the SPSR of the mode takes the masked word, and nothing else changes. -/
theorem msrWritesSpsr : Obligations.WriteSpsr := by
  intro c mask rot imm8 rm s hp hrm f hf
  have hexec := exec_msrForms hp hrm hf
  have hread : readSpsr (prefetch s) = readSpsr s := by simp [readSpsr]
  refine ⟨fun old hold => ?_, fun hm => ?_⟩
  · have hold' := hread.trans hold
    rw [msrWrite_spsr hold', andThen_next] at hexec
    refine ⟨_, hexec, ⟨_, readSpsr_writeSpsr hold' _, fun k => maskWord_getLsbD mask old f.2⟩, fun k hk => ?_, ?_⟩
    · simpa [hk] using writeSpsr_get (modeBank s.cpsr.mode) (maskWord mask old f.2) (prefetch s) k
    · simp [sameBytes, keepsSpecial, keepsPort]
  · rw [hexec, msrWrite_spsr_stops (hread.trans (readSpsr_eq_none.mpr hm)), andThen_fault]

end Sys2Proof.Machine
end

section
/-! SUPPORT. A coprocessor instruction that is not accepted: the trap (48_coprocessor.md R511, R512; 60_exceptions.md
R552). -/

namespace Sys2Proof.Machine

/-- An empty slot aborts, and the request meets no plug-in and takes no answer (R511). -/
theorem ask_emptySlot {cp : Fin 16} {s : State} (word : Word) (h : s.cfg.cpSlots.contains cp = false) :
    (ask cp word s).1 = .abort ∧ (ask cp word s).2.cpState = s.cpState ∧
    (ask cp word s).2.cpAnswers = s.cpAnswers := by
  have hreply : reply cp (answerCycle cp (driveRequest word s)) = (.abort, answerCycle cp (driveRequest word s)) :=
    if_neg (by simpa using h)
  have hgiven : plugInGiven s.cfg cp = false := by rw [plugInGiven, h, Bool.false_and]
  rw [ask, hreply]
  refine ⟨rfl, ?_, by simp⟩
  simp [answerCycle, hgiven]

theorem handshake_abort {cp : Fin 16} {word : Word} {s : State} {go : State → Result}
    (h : (ask cp word s).1 = .abort) :
    handshake cp word s go = raiseException .undefined (endHandshake .abort cp word s) := by
  simp [handshake, h]

theorem handshake_ack {cp : Fin 16} {word : Word} {s : State} {go : State → Result} (h : (ask cp word s).1 = .ack) :
    handshake cp word s go = go (accepted cp word s) := by
  simp [handshake, h]

/-- A handshake that is not accepted changes no plug-in's registers (R512). -/
theorem endHandshake_plugInRegs {r : CpReply} (hr : r ≠ .ack) (cp : Fin 16) (word : Word) (s : State) (j : Fin 16) :
    (endHandshake r cp word s).cpState[j].regs = s.cpState[j].regs := by
  have hgo : beforeGo (takeReply r (ask cp word s).2).cp = true := by simp [beforeGo, takeReply, hr]
  rw [endHandshake, answerCycle_plugInRegs hgo, takeReply_cpState]
  exact ask_plugInRegs cp word s j

/-- Settles O48: the trap is taken from the state after the handshake, which moves the port, the handshake of the
plug-in and the queue of answers alone. -/
theorem coprocessorAbortTraps : Obligations.CoprocessorAbortTraps := by
  intro c op1 crn crd crm o1 op2 rd rn cp p u n w imm8 s hp f hf hu hslot
  have habort : (ask cp (encode f.1) s).1 = .abort := hslot.elim (fun h => (ask_emptySlot _ h).1) (·.2)
  obtain ⟨go, hexec⟩ := exec_cpForms hf
  obtain ⟨t, ht, hcpsr, hpc, hlink, hspsr, hregs, hother, hbytes, hspecial, hport⟩ :=
    raiseException_effect .undefined (endHandshake .abort cp (encode f.1) s)
  obtain ⟨hcp, hstate, hanswers⟩ := hport
  refine ⟨t, ?_, ?_, hpc, ?_, ?_, ?_, ?_, ?_, ?_, ?_, hstate, hanswers, fun j => ?_⟩
  · rw [hexec, conditional_passed hu hp, handshake_abort habort, ht]
  · rw [hcpsr, endHandshake_cpsr]
    rfl
  · simpa using hlink
  · simpa using hspsr
  · exact fun q hq => (hregs q hq).trans (by rw [endHandshake_regs])
  · exact fun k hk => (hother k hk).trans (by rw [endHandshake_spsr])
  · simpa [sameBytes] using hbytes
  · simpa [keepsSpecial] using hspecial
  · rw [hcp]
    exact endHandshake_request s .abort cp _ nofun
  · rw [hstate]
    exact endHandshake_plugInRegs (r := .abort) nofun cp _ s j

end Sys2Proof.Machine
end

section
/-! SUPPORT. What a coprocessor's turn and a look at its lines do (48_coprocessor.md R511 to R516; log entry 6). -/

namespace Sys2Proof.Machine

/-- What a given plug-in makes of a state and the bus record. -/
def plugInTurn (j : Fin 16) (s : State) : PlugInState × CpLines := Config.plugIn j s.cpState[j] (busRecord s.cp)

theorem plugInGiven_iff {cfg : Config} {cp : Fin 16} :
    plugInGiven cfg cp = true ↔ cfg.cpSlots.contains cp = true ∧ cfg.cpPlugIns.contains cp = true := by
  rw [plugInGiven, Bool.and_eq_true]

section
variable {cp : Fin 16} {s : State}

/-! A turn -/

/-- A given plug-in in its turn takes the state it answers, its registers held before `GO`; with none given nothing held
changes. -/
theorem answerCycle_cpState (cp : Fin 16) (s : State) : (answerCycle cp s).cpState =
    if plugInGiven s.cfg cp then s.cpState.set cp (holdRegs (beforeGo s.cp) s.cpState[cp] (plugInTurn cp s).1)
    else s.cpState := by
  unfold answerCycle
  split <;> rfl

/-- A given plug-in drives its lines in its turn. -/
theorem answerCycle_cpLines (cp : Fin 16) (s : State) : (answerCycle cp s).cp.lines =
    if plugInGiven s.cfg cp then (plugInTurn cp s).2 else s.cp.lines := by
  unfold answerCycle
  split <;> rfl

theorem answerCycle_given (h : plugInGiven s.cfg cp = true) :
    (answerCycle cp s).cpState[cp] = holdRegs (beforeGo s.cp) s.cpState[cp] (plugInTurn cp s).1 ∧
    (answerCycle cp s).cp.lines = (plugInTurn cp s).2 := by
  simp [answerCycle_cpState, answerCycle_cpLines, h]

/-- A turn leaves the other slots alone. -/
theorem answerCycle_other {j : Fin 16} (h : j ≠ cp) (s : State) : (answerCycle cp s).cpState[j] = s.cpState[j] := by
  have hval : cp.val ≠ j.val := fun e => h (Fin.ext e.symm)
  rw [answerCycle_cpState]
  split
  · simp [hval]
  · rfl

/-! A look -/

/-- The lines the core sees are those driven; the sixteenth word is the last. -/
theorem look_cpLines (cp : Fin 16) (s : State) : (look cp s).cp.lines =
    { (drivenLines cp s).1 with last := (drivenLines cp s).1.last || decide (15 ≤ s.cp.moved) } := rfl

theorem drivenLines_given (h : plugInGiven s.cfg cp = true) : drivenLines cp s = (s.cp.lines, s) := if_pos h

theorem drivenLines_queued (h : plugInGiven s.cfg cp = false) {x : CpLines} {rest : List CpLines}
    (hq : s.cpAnswers[cp] = x :: rest) : (drivenLines cp s).1 = x := by
  simp [drivenLines, h, hq]

/-- A look takes one answer from the queue of a slot with no plug-in given, if there is one. -/
theorem look_cpAnswers (cp : Fin 16) (s : State) : (look cp s).cpAnswers =
    if plugInGiven s.cfg cp then s.cpAnswers else s.cpAnswers.set cp s.cpAnswers[cp].tail := by
  change (drivenLines cp s).2.cpAnswers = _
  cases h : plugInGiven s.cfg cp with
  | true => simp [drivenLines, h]
  | false =>
    cases hq : s.cpAnswers[cp] with
    | nil =>
      have hset : s.cpAnswers.set cp [] = s.cpAnswers := by rw [← hq]; exact Vector.set_getElem_self _
      simp [drivenLines, h, hq, hset]
    | cons x rest => simp [drivenLines, h, hq]

theorem look_cpAnswers_other {j : Fin 16} (h : j ≠ cp) (s : State) : (look cp s).cpAnswers[j] = s.cpAnswers[j] := by
  have hval : cp.val ≠ j.val := fun e => h (Fin.ext e.symm)
  rw [look_cpAnswers]
  split
  · rfl
  · simp [hval]

/-- The sixteenth word of a transfer is its last. -/
theorem look_last (h : 15 ≤ s.cp.moved) : (look cp s).cp.lines.last = true := by
  simp [look_cpLines, h]

/-! A handshake -/

theorem linesReply_ack (x : CpLines) : linesReply x = .ack ↔ x.ack = true := by
  unfold linesReply
  cases x.ack <;> cases x.abort <;> simp

theorem linesReply_abort (x : CpLines) : linesReply x = .abort ↔ x.ack = false ∧ x.abort = true := by
  unfold linesReply
  cases x.ack <;> cases x.abort <;> simp

/-- A given plug-in sees the request, and what it drives then is the reply (R512, R515). -/
theorem ask_given (h : plugInGiven s.cfg cp = true) (word : Word) :
    (ask cp word s).1 = linesReply (look cp (answerCycle cp (driveRequest word s))).cp.lines ∧
    (ask cp word s).2 = look cp (answerCycle cp (driveRequest word s)) := by
  have hslot : (answerCycle cp (driveRequest word s)).cfg.cpSlots.contains cp = true := by
    simpa using (plugInGiven_iff.mp h).1
  rw [ask, reply, if_pos hslot]
  exact ⟨rfl, rfl⟩

theorem busRecord_ask (cp : Fin 16) (word : Word) (s : State) : busRecord (ask cp word s).2.cp =
    { request := true, instr := word, dataOut := s.cp.dataOut, transfer := false } := by
  have hreply : busRecord (ask cp word s).2.cp = busRecord (answerCycle cp (driveRequest word s)).cp := by
    unfold ask reply
    split
    · simp [busRecord]
    · rfl
  rw [hreply]
  simp [busRecord, driveRequest]

theorem busRecord_accepted (cp : Fin 16) (word : Word) (s : State) : busRecord (accepted cp word s).cp =
    { request := false, instr := word, dataOut := s.cp.dataOut, transfer := false } := by
  have hdata : (ask cp word s).2.cp.dataOut = s.cp.dataOut := congrArg CpBus.dataOut (busRecord_ask cp word s)
  simp [busRecord, accepted, endHandshake, takeReply, hdata]

theorem accepted_dataOut (cp : Fin 16) (word : Word) (s : State) : (accepted cp word s).cp.dataOut = s.cp.dataOut :=
  congrArg CpBus.dataOut (busRecord_accepted cp word s)

/-- A given plug-in sees the acceptance with the request still driven, and may act on it (R512). -/
theorem accepted_given (h : plugInGiven s.cfg cp = true) (word : Word) :
    (accepted cp word s).cpState[cp] = (Config.plugIn cp (ask cp word s).2.cpState[cp]
      { request := true, instr := word, dataOut := s.cp.dataOut, transfer := false }).1 ∧
    (accepted cp word s).cp.lines = (Config.plugIn cp (ask cp word s).2.cpState[cp]
      { request := true, instr := word, dataOut := s.cp.dataOut, transfer := false }).2 := by
  have hgo : beforeGo (takeReply .ack (ask cp word s).2).cp = false := by simp [beforeGo, takeReply]
  obtain ⟨hstate, hlines⟩ := answerCycle_given (s := takeReply .ack (ask cp word s).2) (by simpa using h)
  rw [hgo, holdRegs, if_neg Bool.false_ne_true] at hstate
  rw [← busRecord_ask]
  exact ⟨hstate, hlines⟩

/-- A given plug-in sees each word that moves (R513). -/
theorem moveWord_given (h : plugInGiven s.cfg cp = true) (hreq : s.cp.request = false) (v : Option Word) :
    (moveWord cp v s).cpState[cp] = (Config.plugIn cp s.cpState[cp]
      { request := false, instr := s.cp.instr, dataOut := v.getD s.cp.dataOut, transfer := true }).1 ∧
    (moveWord cp v s).cp.lines = (Config.plugIn cp s.cpState[cp]
      { request := false, instr := s.cp.instr, dataOut := v.getD s.cp.dataOut, transfer := true }).2 := by
  have hgo : beforeGo (driveTransfer v s).cp = false := by simp [beforeGo, driveTransfer, hreq]
  obtain ⟨hstate, hlines⟩ := answerCycle_given (s := driveTransfer v s) (by simpa using h)
  rw [hgo, holdRegs, if_neg Bool.false_ne_true] at hstate
  rw [← hreq]
  exact ⟨hstate, hlines⟩

section
variable {j : Fin 16} (h : j ≠ cp)
include h

/-! The other slots -/

theorem ask_other (word : Word) (s : State) : (ask cp word s).2.cpState[j] = s.cpState[j] := by
  rw [ask, reply_cpState, answerCycle_other h, driveRequest_cpState]

theorem reply_cpAnswers_other (s : State) : (reply cp s).2.cpAnswers[j] = s.cpAnswers[j] := by
  unfold reply
  split
  · exact look_cpAnswers_other h s
  · rfl

theorem accepted_other (word : Word) (s : State) : (accepted cp word s).cpState[j] = s.cpState[j] := by
  rw [accepted, endHandshake, answerCycle_other h, takeReply_cpState, ask_other h]

theorem accepted_cpAnswers_other (word : Word) (s : State) :
    (accepted cp word s).cpAnswers[j] = s.cpAnswers[j] := by
  rw [accepted, endHandshake, answerCycle_cpAnswers, takeReply_cpAnswers, ask, reply_cpAnswers_other h,
    answerCycle_cpAnswers, driveRequest_cpAnswers]

theorem moveWord_other (v : Option Word) (s : State) : (moveWord cp v s).cpState[j] = s.cpState[j] := by
  rw [moveWord, answerCycle_other h, driveTransfer_cpState]
end
end

end Sys2Proof.Machine
end

section
/-! SUPPORT. The coprocessors' stage of a system cycle, slot by slot (48_coprocessor.md R515, 70_reset_and_hazards.md
R610). -/

namespace Sys2Proof.Machine

/-- A slot's part of the coprocessors' stage. -/
def slotTurn (u : State) (j : Fin 16) : State :=
  if plugInGiven u.cfg j then cyclePlugIn j (cpAt u.cp.instr == j) u else u

/-- What a slot holds after the stage: its own turn's state, its registers held if it is addressed and not accepted. -/
def slotAfter (u : State) (j : Fin 16) : PlugInState :=
  if plugInGiven u.cfg j then holdRegs (cpAt u.cp.instr == j && beforeGo u.cp) u.cpState[j] (plugInTurn j u).1
  else u.cpState[j]

/-- The lines after the stage: the addressed slot's, if a plug-in is given there. -/
def linesAfter (u : State) : CpLines :=
  if plugInGiven u.cfg (cpAt u.cp.instr) then (plugInTurn (cpAt u.cp.instr) u).2 else u.cp.lines

section
variable {u : State} {i j : Fin 16}

theorem slotTurn_self (u : State) (j : Fin 16) : (slotTurn u j).cpState[j] = slotAfter u j := by
  unfold slotTurn slotAfter
  split
  · simp [cyclePlugIn, plugInTurn]
  · rfl

theorem slotTurn_other (h : j ≠ i) (u : State) : (slotTurn u i).cpState[j] = u.cpState[j] := by
  have hval : i.val ≠ j.val := fun e => h (Fin.ext e.symm)
  unfold slotTurn
  split
  · simp [cyclePlugIn, hval]
  · rfl

theorem slotTurn_lines_addressed (h : cpAt u.cp.instr = i) : (slotTurn u i).cp.lines = linesAfter u := by
  subst h
  unfold slotTurn linesAfter
  split
  · simp [cyclePlugIn, plugInTurn]
  · rfl

/-- A slot's turn changes nothing of the port but the lines, and those only if it is addressed. -/
theorem slotTurn_port (u : State) (i : Fin 16) :
    (slotTurn u i).cfg = u.cfg ∧ (slotTurn u i).cp = { u.cp with lines := (slotTurn u i).cp.lines } ∧
    (cpAt u.cp.instr ≠ i → (slotTurn u i).cp.lines = u.cp.lines) := by
  unfold slotTurn
  split
  · refine ⟨rfl, ?_, fun h => ?_⟩
    · unfold cyclePlugIn
      dsimp only
      split <;> rfl
    · simp [cyclePlugIn, h]
  · exact ⟨rfl, rfl, fun _ => rfl⟩

theorem slotAfter_slotTurn (h : j ≠ i) (u : State) : slotAfter (slotTurn u i) j = slotAfter u j := by
  obtain ⟨hcfg, hcp, -⟩ := slotTurn_port u i
  simp only [slotAfter, plugInTurn, slotTurn_other h, hcfg]
  rw [hcp]
  rfl

theorem linesAfter_slotTurn (h : cpAt u.cp.instr ≠ i) : linesAfter (slotTurn u i) = linesAfter u := by
  obtain ⟨hcfg, hcp, hlines⟩ := slotTurn_port u i
  have hinstr : (slotTurn u i).cp.instr = u.cp.instr := by rw [hcp]
  simp only [linesAfter, plugInTurn, hinstr, slotTurn_other h, hcfg, hlines h]
  rw [hcp]
  rfl
end

/-- The turns of some slots, each once: every one of them has its own, whatever the others did. -/
theorem slotTurns_effect {l : List (Fin 16)} (hl : l.Nodup) (u : State) :
    (∀ j, (l.foldl slotTurn u).cpState[j] = if j ∈ l then slotAfter u j else u.cpState[j]) ∧
    (l.foldl slotTurn u).cp.lines = if cpAt u.cp.instr ∈ l then linesAfter u else u.cp.lines := by
  induction l generalizing u with
  | nil => simp
  | cons i l ih =>
    obtain ⟨hi, hl⟩ := List.nodup_cons.mp hl
    obtain ⟨hstate, hlines⟩ := ih hl (slotTurn u i)
    obtain ⟨-, hcp, hkept⟩ := slotTurn_port u i
    have hinstr : (slotTurn u i).cp.instr = u.cp.instr := by rw [hcp]
    refine ⟨fun j => ?_, ?_⟩
    · rw [List.foldl_cons, hstate]
      rcases Decidable.em (j = i) with rfl | hj
      · rw [if_neg hi, slotTurn_self, if_pos List.mem_cons_self]
      · simp [hj, slotAfter_slotTurn hj, slotTurn_other hj]
    · rw [List.foldl_cons, hlines, hinstr]
      rcases Decidable.em (cpAt u.cp.instr = i) with h | h
      · simp [h, hi, slotTurn_lines_addressed h]
      · simp [h, linesAfter_slotTurn h, hkept h]

theorem coprocessorStage_eq_slotTurns (s : State) :
    coprocessorStage s = endCpCycle ((List.finRange 16).foldl slotTurn s) := by
  unfold coprocessorStage slotTurn
  rfl

theorem endCpCycle_cpLines (s : State) : (endCpCycle s).cp.lines = s.cp.lines := rfl

/-- Every slot has its turn in the stage (R515, R610). -/
theorem coprocessorStage_slots (s : State) : (∀ j : Fin 16, (coprocessorStage s).cpState[j] = slotAfter s j) ∧
    (coprocessorStage s).cp.lines = linesAfter s := by
  obtain ⟨hstate, hlines⟩ := slotTurns_effect (List.nodup_finRange 16) s
  simp only [List.mem_finRange, if_true] at hstate hlines
  rw [coprocessorStage_eq_slotTurns]
  exact ⟨fun j => by rw [endCpCycle_cpState, hstate], (endCpCycle_cpLines _).trans hlines⟩

/-- A system cycle that the bus sequencer gets through ends with the coprocessors' stage, or with a reset after it
(R610, 70_reset_and_hazards.md R601). -/
theorem cycle_of_busCycle {s x : State} (h : busCycle (flushIfRequested (sampleInput s).2) = .next x) :
    cycle s = .next (if (sampleInput s).1 = true then doReset (coprocessorStage x) else coprocessorStage x) := by
  simp only [cycle, h, andThen_next]
  split <;> rfl

/-- A request replied to ends with the stage (R512). -/
theorem coprocessorStage_request (x : State) :
    (coprocessorStage x).cp.request = true ↔ x.cp.request = true ∧ x.cp.taken = .wait := by
  obtain ⟨q, lines, h⟩ := coprocessorStage_eq x
  simp [h]

/-- The stage changes what the slots hold, their lines, the strobe, and a request replied to. -/
theorem coprocessorStage_frame (x : State) : coprocessorStage x =
    { x with cpState := (coprocessorStage x).cpState,
             cp := { x.cp with lines := (coprocessorStage x).cp.lines, transfer := false,
                               request := (coprocessorStage x).cp.request, taken := .wait } } := by
  obtain ⟨q, lines, h⟩ := coprocessorStage_eq x
  rw [h]

end Sys2Proof.Machine
end

section
/-! SUPPORT. Two states whose ports agree but for free lines: the exchange with a slot goes the same way from both, so
the fetches and accesses of an instruction do not bear on it (48_coprocessor.md R516). -/

namespace Sys2Proof.Machine

/-- The port, what the slots hold and the answers to come agree; the lines do where a plug-in given in the slot drives
them. -/
structure PortAgrees (cp : Fin 16) (s t : State) : Prop where
  cfg : t.cfg = s.cfg
  held : t.cpState = s.cpState
  answers : t.cpAnswers = s.cpAnswers
  port : ∀ x, ({ t.cp with lines := x } : CpPort) = { s.cp with lines := x }
  lines : plugInGiven s.cfg cp = true → t.cp.lines = s.cp.lines

section
variable {cp : Fin 16} {s t u : State}

theorem portAgrees_of_kept (hcfg : t.cfg = s.cfg) (hport : keepsPort s t) : PortAgrees cp s t := by
  obtain ⟨hcp, hheld, hanswers⟩ := hport
  exact ⟨hcfg, hheld, hanswers, fun _ => by rw [hcp], fun _ => by rw [hcp]⟩

theorem PortAgrees.trans (h : PortAgrees cp s t) (h' : PortAgrees cp t u) : PortAgrees cp s u where
  cfg := h'.cfg.trans h.cfg
  held := h'.held.trans h.held
  answers := h'.answers.trans h.answers
  port x := (h'.port x).trans (h.port x)
  lines hgiven := (h'.lines (by rwa [h.cfg])).trans (h.lines hgiven)

theorem PortAgrees.given (h : PortAgrees cp s t) : plugInGiven t.cfg cp = plugInGiven s.cfg cp := by rw [h.cfg]

/-- What does not look at the lines is the same of both ports. -/
theorem PortAgrees.port_map {α : Type} (h : PortAgrees cp s t) (f : CpPort → α)
    (hf : ∀ p x, f { p with lines := x } = f p) : f t.cp = f s.cp := by
  rw [← hf t.cp default, h.port, hf]

theorem PortAgrees.moved (h : PortAgrees cp s t) : t.cp.moved = s.cp.moved := h.port_map (·.moved) fun _ _ => rfl

/-- A look keeps the agreement. -/
theorem PortAgrees.look (h : PortAgrees cp s t) : PortAgrees cp (look cp s) (look cp t) where
  cfg := by simpa using h.cfg
  held := by simpa using h.held
  answers := by rw [look_cpAnswers, look_cpAnswers, h.given, h.answers]
  port x := by
    rw [look_cp, look_cp s]
    exact h.port x
  lines hgiven := by
    rw [look_cfg] at hgiven
    rw [look_cpLines, look_cpLines, drivenLines_given hgiven, drivenLines_given (h.given.trans hgiven), h.lines hgiven,
      h.moved]

/-- A look that brings no free value brings the same lines. -/
theorem PortAgrees.look_eq (h : PortAgrees cp s t) (hsettled : settled cp 1 s) :
    (Machine.look cp t).cp.lines = (Machine.look cp s).cp.lines := by
  cases hgiven : plugInGiven s.cfg cp with
  | true => exact h.look.lines (by simpa using hgiven)
  | false =>
    obtain ⟨x, rest, hq⟩ := List.exists_cons_of_length_pos (hsettled.resolve_left (ne_true_of_eq_false hgiven))
    rw [look_cpLines, look_cpLines, drivenLines_queued hgiven hq, drivenLines_queued (h.given.trans hgiven)
      (by rw [h.answers]; exact hq), h.moved]

/-- A coprocessor's turn keeps the agreement: what a plug-in sees is the same. -/
theorem PortAgrees.answerCycle (h : PortAgrees cp s t) : PortAgrees cp (answerCycle cp s) (answerCycle cp t) := by
  have hgo : beforeGo t.cp = beforeGo s.cp := h.port_map beforeGo fun _ _ => rfl
  have hrecord : busRecord t.cp = busRecord s.cp := h.port_map busRecord fun _ _ => rfl
  have hturn : plugInTurn cp t = plugInTurn cp s := by rw [plugInTurn, plugInTurn, h.held, hrecord]
  refine ⟨by simpa using h.cfg, ?_, by simpa using h.answers, fun x => ?_, fun hgiven => ?_⟩
  · rw [answerCycle_cpState, answerCycle_cpState, h.given, hgo, hturn, h.held]
  · rw [answerCycle_cp, answerCycle_cp s]
    exact h.port_map (fun p => { p with transfer := false, taken := .wait, lines := x,
                                        request := p.request && p.taken == CpReply.wait }) fun _ _ => rfl
  · rw [answerCycle_cfg] at hgiven
    rw [answerCycle_cpLines, answerCycle_cpLines, h.given, if_pos hgiven, if_pos hgiven, hturn]

/-- A word that moves keeps the agreement. -/
theorem PortAgrees.moveWord (h : PortAgrees cp s t) (v : Option Word) :
    PortAgrees cp (moveWord cp v s) (moveWord cp v t) := by
  have hdrive : PortAgrees cp (driveTransfer v s) (driveTransfer v t) := by
    refine ⟨by simpa using h.cfg, by simpa using h.held, by simpa using h.answers, fun x => ?_, h.lines⟩
    exact h.port_map (fun p => { p with transfer := true, dataOut := v.getD p.dataOut, sent := p.sent ++ v.toList,
                                        moved := p.moved + 1, lines := x }) fun _ _ => rfl
  exact hdrive.answerCycle

theorem portAgrees_prefetch (cp : Fin 16) (s : State) : PortAgrees cp s (prefetch s) :=
  portAgrees_of_kept (by simp) (by simp [keepsPort])
end

end Sys2Proof.Machine
end

section
/-! SUPPORT. CDP, MCR and MRC accepted (48_coprocessor.md R510, R513, R520, R523). -/

namespace Sys2Proof.Machine

theorem restrictMcr_eq_none {rd : Reg} (h : rd ≠ 15) : restrictMcr rd = none := by simp [restrictMcr, firstReason, h]

section
variable {c : Cond} {op1 crn crd crm : BitVec 4} {o1 op2 : BitVec 3} {rd : Reg} {cp : Fin 16} {s : State}
  (hp : condPassed c s.cpsr = true)
include hp

theorem exec_cdp_accepted (hack : (ask cp (encode (.cdp c op1 crn crd cp op2 crm)) s).1 = .ack) :
    exec (.cdp c op1 crn crd cp op2 crm) s =
      complete (prefetch (accepted cp (encode (.cdp c op1 crn crd cp op2 crm)) s)) := by
  change execCdp c op1 crn crd cp op2 crm s = _
  rw [execCdp, conditional_passed rfl hp, handshake_ack hack]

/-- The register is as it was before the handshake. -/
theorem exec_mcr_accepted (hack : (ask cp (encode (.mcr c o1 crn rd cp op2 crm)) s).1 = .ack) (hrd : rd ≠ 15) :
    exec (.mcr c o1 crn rd cp op2 crm) s = complete (moveWord cp (some (readReg s rd))
      (prefetch (accepted cp (encode (.mcr c o1 crn rd cp op2 crm)) s))) := by
  change execMcr c o1 crn rd cp op2 crm s = _
  rw [execMcr, conditional_passed (restrictMcr_eq_none hrd) hp, handshake_ack hack,
    readReg_congr rd (accepted_regs ..) (accepted_pc ..) (by rw [accepted_cpsr])]

theorem exec_mrc_accepted (hack : (ask cp (encode (.mrc c o1 crn rd cp op2 crm)) s).1 = .ack) :
    exec (.mrc c o1 crn rd cp op2 crm) s =
      complete (mrcWrite rd (look cp (prefetch (accepted cp (encode (.mrc c o1 crn rd cp op2 crm)) s))).cp.lines.dataIn
        (moveWord cp none (look cp (prefetch (accepted cp (encode (.mrc c o1 crn rd cp op2 crm)) s))))) := by
  change execMrc c o1 crn rd cp op2 crm s = _
  rw [execMrc, conditional_passed rfl hp, handshake_ack hack]
end

/-- R523: MRC into R15 writes no register. -/
theorem mrcWrite_get (rd : Reg) (v : Word) (s : State) (q : Fin 30) :
    (mrcWrite rd v s).regs[q] = if phys (modeBank s.cpsr.mode) rd = some q then v else s.regs[q] := by
  unfold mrcWrite
  split
  · next h => simp [h, phys_fifteen]
  · exact writeReg_get rd v s q

/-- R523: MRC into R15 writes the flags alone. -/
theorem mrcWrite_psr (rd : Reg) (v : Word) (s : State) :
    (mrcWrite rd v s).cpsr = if rd = 15 then withFlags s.cpsr v else s.cpsr := by
  unfold mrcWrite
  split
  · rfl
  · exact writeReg_cpsr ..

/-- A given plug-in sees the request; what it drives then is the reply, and its registers stay (R512, R515). -/
theorem ask_given_effect {cp : Fin 16} {s : State} {word : Word} {x : PlugInState × CpLines}
    (h : plugInGiven s.cfg cp = true) (hx : x = Config.plugIn cp s.cpState[cp]
      { request := true, instr := word, dataOut := s.cp.dataOut, transfer := false }) :
    ((ask cp word s).1 = .ack ↔ x.2.ack = true) ∧
    ((ask cp word s).1 = .abort ↔ x.2.ack = false ∧ x.2.abort = true) ∧
    (ask cp word s).2.cpState[cp] = { x.1 with regs := s.cpState[cp].regs } := by
  obtain ⟨hreply, hasked⟩ := ask_given h word
  obtain ⟨hheld, hlines⟩ := answerCycle_given (s := driveRequest word s) (by simpa using h)
  have hturn : plugInTurn cp (driveRequest word s) = x := hx.symm
  rw [hturn] at hheld hlines
  have hseen := look_cpLines cp (answerCycle cp (driveRequest word s))
  rw [drivenLines_given (by simpa using h), hlines] at hseen
  rw [hreply, hasked, hseen, look_cpState, hheld]
  exact ⟨linesReply_ack _, linesReply_abort _, rfl⟩

/-- One slot after the coprocessors' stage, case by case (R512, R515, R610). -/
theorem slotAfter_cases (x : State) (j : Fin 16) :
    (plugInGiven x.cfg j = true → cpAt x.cp.instr = j → linesAfter x = (plugInTurn j x).2) ∧
    (¬ plugInGiven x.cfg j = true → cpAt x.cp.instr = j → linesAfter x = x.cp.lines) ∧
    (plugInGiven x.cfg j = true → cpAt x.cp.instr = j ∧ x.cp.request = true ∧ x.cp.taken ≠ .ack →
      slotAfter x j = { (plugInTurn j x).1 with regs := x.cpState[j].regs }) ∧
    (plugInGiven x.cfg j = true → ¬ (cpAt x.cp.instr = j ∧ x.cp.request = true ∧ x.cp.taken ≠ .ack) →
      slotAfter x j = (plugInTurn j x).1) ∧
    (¬ plugInGiven x.cfg j = true → slotAfter x j = x.cpState[j]) := by
  have hhold : (cpAt x.cp.instr == j && beforeGo x.cp) = true ↔
      cpAt x.cp.instr = j ∧ x.cp.request = true ∧ x.cp.taken ≠ .ack := by
    simp [beforeGo]
  refine ⟨fun hg ha => ?_, fun hg ha => ?_, fun hg hb => ?_, fun hg hb => ?_, fun hg => if_neg hg⟩
  · subst ha
    exact if_pos hg
  · subst ha
    exact if_neg hg
  · rw [slotAfter, if_pos hg, holdRegs, if_pos (hhold.mpr hb)]
  · rw [slotAfter, if_pos hg, holdRegs, if_neg (mt hhold.mp hb)]

/-- Settles O50: a given plug-in is in its slot's turns, in a handshake, at each word and in the stage of a system
cycle; the fetch of an accepted instruction does not bear on its exchange. -/
theorem coprocessorRegisterTransfers : Obligations.CoprocessorRegisterTransfers := by
  refine ⟨fun cp word v s => ⟨ask_emptySlot word, fun hgiven => ?_, fun j hj => ?_⟩, fun s x hx => ?_, ?_⟩
  · have hg : plugInGiven s.cfg cp = true := plugInGiven_iff.mpr hgiven
    obtain ⟨hack, habort, hheld⟩ := ask_given_effect (word := word) hg rfl
    obtain ⟨haccepted, hacceptedLines⟩ := accepted_given hg word
    obtain ⟨hmoved, hmovedLines⟩ := moveWord_given (s := accepted cp word s) (by simpa using hg)
      (accepted_request ..) v
    rw [accepted_instr, haccepted, accepted_dataOut] at hmoved hmovedLines
    exact ⟨hack, habort, hheld, haccepted, hacceptedLines, hmoved, hmovedLines⟩
  · exact ⟨ask_other hj word s, accepted_other hj word s, by rw [moveWord_other hj, accepted_other hj],
      by rw [moveWord_cpAnswers, accepted_cpAnswers_other hj]⟩
  · refine ⟨coprocessorStage x, cycle_of_busCycle hx, coprocessorStage_request x, coprocessorStage_frame x,
      fun j => ?_⟩
    obtain ⟨hheld, hlines⟩ := coprocessorStage_slots x
    obtain ⟨hlinesGiven, hlinesFree, hbefore, hafter, hfree⟩ := slotAfter_cases x j
    rw [hheld, hlines]
    simp only [plugInGiven_iff] at hlinesGiven hlinesFree hbefore hafter hfree
    exact ⟨hlinesGiven, hlinesFree, fun hg ha hreq htaken => hbefore hg ⟨ha, hreq, htaken⟩, hafter, hfree⟩
  · intro c op1 crn crd crm o1 op2 rd cp s hp post
    refine ⟨fun hack => ?_, fun hack hrd => ?_, fun hack => ?_⟩
    · refine ⟨_, exec_cdp_accepted hp hack, ?_⟩
      simp [post, sameBytes, keepsSpecial]
    · have hagree := (portAgrees_prefetch cp (accepted cp (encode (.mcr c o1 crn rd cp op2 crm)) s)).moveWord
        (some (readReg s rd))
      refine ⟨_, exec_mcr_accepted hp hack hrd, ?_⟩
      simp [post, sameBytes, keepsSpecial, hagree.held]
    · have hagree := portAgrees_prefetch cp (accepted cp (encode (.mrc c o1 crn rd cp op2 crm)) s)
      have hmoved := hagree.look.moveWord none
      refine ⟨_, exec_mrc_accepted hp hack, ?_, ?_, _, fun hsettled => congrArg _ (hagree.look_eq hsettled),
        fun q => ?_, fun hrd => ?_, fun hrd => ?_⟩
      · simp [post, sameBytes, keepsSpecial, hmoved.held, hagree.look.answers]
      · simp
      · rw [advance_regs, mrcWrite_get]
        simp
      · simp [mrcWrite_psr, hrd]
      · simp [mrcWrite_psr, hrd, withFlags]

end Sys2Proof.Machine
end

section
/-! SUPPORT. The words of an LDC or STC as the coprocessor counts them: which lines end a transfer (48_coprocessor.md
R525 to R527; log entry 17). -/

namespace Sys2Proof.Machine

/-- The transfer ends with one of these words, of which there are at most `n`. -/
abbrev endsBy (cp : Fin 16) (n : Nat) (vs : List (Option Word)) (s : State) : Prop :=
  vs.length = n ∨ (settled cp vs.length s ∧ ∃ x ∈ (transferLines cp vs s).1, x.last = true)

section
variable {cp : Fin 16} {n : Nat} {v : Option Word} {vs : List (Option Word)} {s u : State}

/-- Looks that bring no free value: the first, and those after its word has moved. -/
theorem settled_step (v : Option Word) (h : settled cp (n + 1) s) :
    settled cp 1 s ∧ settled cp n (moveWord cp v (look cp s)) := by
  cases hg : plugInGiven s.cfg cp with
  | true => exact ⟨.inl hg, .inl (by simpa using hg)⟩
  | false =>
    have hlen := h.resolve_left (ne_true_of_eq_false hg)
    refine ⟨.inr (by omega), .inr ?_⟩
    rw [moveWord_cpAnswers, look_cpAnswers, hg, if_neg Bool.false_ne_true]
    simpa using Nat.le_sub_of_add_le hlen

/-- The line of the one word is `last`. -/
theorem wholeTransfer_single (v : Option Word) (h : PortAgrees cp s u) (hlast : (look cp u).cp.lines.last = true) :
    wholeTransfer cp [v] s := fun hsettled =>
  ⟨[], (look cp s).cp.lines, rfl, by rw [← h.look_eq hsettled, hlast], by simp⟩

/-- The line of the first word is not `last`, and the rest is a whole transfer. -/
theorem wholeTransfer_cons (h : PortAgrees cp s u) (hlast : (look cp u).cp.lines.last = false)
    (hrest : wholeTransfer cp vs (moveWord cp v (look cp s))) : wholeTransfer cp (v :: vs) s := by
  intro hsettled
  obtain ⟨hfirst, hlater⟩ := settled_step v hsettled
  obtain ⟨before, x, heq, hx, hbefore⟩ := hrest hlater
  refine ⟨(look cp s).cp.lines :: before, x, ?_, hx, List.forall_mem_cons.mpr ⟨?_, hbefore⟩⟩
  · rw [transferLines, heq, List.cons_append]
  · rw [← h.look_eq hfirst, hlast]

/-- A transfer that has to end and does not end with its first word has a second one, and ends after it. -/
theorem endsBy_step (h : PortAgrees cp s u) (hmoved : s.cp.moved + (n + 1) = 16)
    (hlast : (look cp u).cp.lines.last = false) (hends : endsBy cp (n + 1) (v :: vs) s) :
    1 ≤ vs.length ∧ endsBy cp n vs (moveWord cp v (look cp s)) := by
  have hcount : ¬ 15 ≤ s.cp.moved := fun hc => by
    rw [look_last (h.moved ▸ hc)] at hlast
    cases hlast
  rcases hends with hlen | ⟨hsettled, x, hx, hxlast⟩
  · rw [List.length_cons] at hlen
    exact ⟨by omega, .inl (by omega)⟩
  · obtain ⟨hfirst, hlater⟩ := settled_step v hsettled
    rcases List.mem_cons.mp hx with rfl | hx
    · rw [← h.look_eq hfirst, hlast] at hxlast
      cases hxlast
    · refine ⟨?_, .inr ⟨hlater, x, hx, hxlast⟩⟩
      cases vs with
      | nil => cases hx
      | cons => simp

/-- The words driven are recorded in order. -/
theorem transferLines_sent (vs : List (Option Word)) (s : State) :
    (transferLines cp vs s).2.cp.sent = s.cp.sent ++ vs.flatMap Option.toList := by
  induction vs generalizing s with
  | nil => simp [transferLines]
  | cons v vs ih => simp [transferLines, ih]

/-- No request is driven during a transfer. -/
theorem transferLines_request (vs : List (Option Word)) (h : s.cp.request = false) :
    (transferLines cp vs s).2.cp.request = false := by
  induction vs generalizing s with
  | nil => exact h
  | cons v vs ih => exact ih (by simp [h])
end

/-! The words' addresses -/

/-- The address of word `k` of a transfer from `a` (R526, R527). -/
def cpWord (a : Word) (k : Nat) : Word := a + BitVec.ofNat 32 (4 * k)

theorem cpWord_zero (a : Word) : cpWord a 0 = a := BitVec.add_zero a

theorem cpWord_succ (a : Word) (k : Nat) : cpWord a (k + 1) = cpWord (a + 4) k := by
  rw [cpWord, Nat.mul_succ, BitVec.ofNat_add, BitVec.add_comm (.ofNat 32 (4 * k)), ← BitVec.add_assoc]
  rfl

/-- The words of a transfer are distinct. -/
theorem cpWord_otherWord (a : Word) {k : Nat} (h : k < 15) : a.toNat / 4 ≠ (cpWord (a + 4) k).toNat / 4 := by
  rw [← cpWord_succ]
  simp only [cpWord, BitVec.toNat_add, BitVec.toNat_ofNat]
  omega

theorem wordsRead_cons {m : Memory} {a v : Word} {vs : List Word} : wordsRead m (cpWord a) (v :: vs) ↔
    (a.msb = false → v = wordAt m (a.toNat / 4 * 4)) ∧ wordsRead m (cpWord (a + 4)) vs := by
  constructor
  · intro h
    refine ⟨fun ha => ?_, fun k hk hmem => ?_⟩
    · have hfirst := h 0 (by simp)
      rw [cpWord_zero] at hfirst
      exact Option.some.inj (hfirst ha)
    · have hlater := h (k + 1) (by simpa using hk)
      rw [cpWord_succ] at hlater
      exact hlater hmem
  · rintro ⟨hfirst, hlater⟩ k hk hmem
    cases k with
    | zero =>
      rw [cpWord_zero] at hmem ⊢
      exact congrArg some (hfirst hmem)
    | succ k =>
      rw [cpWord_succ] at hmem ⊢
      exact hlater k (by simpa using hk) hmem

/-! The start of a transfer -/

theorem cpOffset_eq (x : Byte) : (x.setWidth 32 * 4 : Word) = BitVec.ofNat 32 (4 * x.toNat) := by
  apply BitVec.eq_of_toNat_eq
  simp [Nat.mul_comm]

/-- The address and the base of a transfer are those of before the handshake (R526). -/
theorem cpAddress_accepted (cp : Fin 16) (word : Word) (p u w : Bool) (rn : Reg) (imm8 : Byte) (s : State) :
    cpAddress p u w rn imm8 (accepted cp word s) =
      { addr := cpStart p u rn imm8 s, wb := if w then some (cpMoved u rn imm8 s) else none } := by
  have hbase : readReg (accepted cp word s) rn = readReg s rn :=
    readReg_congr rn (accepted_regs ..) (accepted_pc ..) (by rw [accepted_cpsr])
  rw [cpAddress, hbase, cpOffset_eq]
  rfl

/-- What a transfer starts from: the accepted instruction prefetched, the base written. -/
def transferStart (cp : Fin 16) (word : Word) (u w : Bool) (rn : Reg) (imm8 : Byte) (s : State) : State :=
  writeBack rn (if w then some (cpMoved u rn imm8 s) else none) (prefetch (accepted cp word s))

section
variable (cp : Fin 16) (word : Word) (u w : Bool) (rn : Reg) (imm8 : Byte) (s : State)

theorem transferStart_agrees : PortAgrees cp (accepted cp word s) (transferStart cp word u w rn imm8 s) :=
  portAgrees_of_kept (by simp [transferStart]) (by simp [transferStart, keepsPort])

/-- The start of a transfer changes the registers as W says, and neither memory nor what `keepsSpecial` names. -/
theorem transferStart_frame : (∀ q : Fin 30, (transferStart cp word u w rn imm8 s).regs[q] =
      baseResult s rn (if w then some (cpMoved u rn imm8 s) else none) q) ∧
    (transferStart cp word u w rn imm8 s).cfg = s.cfg ∧ (transferStart cp word u w rn imm8 s).mem = s.mem ∧
    (transferStart cp word u w rn imm8 s).cpsr = s.cpsr ∧ (transferStart cp word u w rn imm8 s).pc = s.pc ∧
    keepsSpecial s (transferStart cp word u w rn imm8 s) := by
  refine ⟨fun q => writeBack_get (by simp) (by simp) rn _ q, ?_⟩
  simp [transferStart, keepsSpecial]

theorem transferStart_coherent (hw : Config.wf s.cfg) (hc : cacheCoherent s.cfg s.mem s.cache) :
    cacheCoherent (transferStart cp word u w rn imm8 s).cfg (transferStart cp word u w rn imm8 s).mem
      (transferStart cp word u w rn imm8 s).cache := by
  simpa [transferStart] using
    prefetch_cacheCoherent (s := accepted cp word s) (by simpa using hw) (by simpa using hc)
end

end Sys2Proof.Machine
end

section
/-! SUPPORT. LDC accepted (48_coprocessor.md R525, R526): words read and driven until `last`. -/

namespace Sys2Proof.Machine

/-- The transfer of an LDC from a state whose port agrees with that of `s`: where the words it may need are served, it
drives the words memory holds, up to the one with `last`. -/
theorem loadTransfer_effect {cp : Fin 16} {n m : Nat} {a : Word} {s u : State} (hagree : PortAgrees cp s u)
    (hmoved : s.cp.moved + n = 16) (hm : 1 ≤ m) (hmn : m ≤ n) (hw : Config.wf u.cfg)
    (hc : cacheCoherent u.cfg u.mem u.cache) (hf : ∀ k, k < m → busFault u.cfg .word (cpWord a k) = none)
    (hends : ∀ vs : List Word, vs.length = m → wordsRead u.mem (cpWord a) vs → endsBy cp n (vs.map some) s) :
    ∃ t vs, loadTransfer cp n a u = .next t ∧ 1 ≤ vs.length ∧ vs.length ≤ m ∧
      wordsRead u.mem (cpWord a) vs ∧ wholeTransfer cp (vs.map some) s ∧
      PortAgrees cp (transferLines cp (vs.map some) s).2 t := by
  induction n generalizing m a s u with
  | zero => omega
  | succ n ih =>
    obtain ⟨m, rfl⟩ := Nat.exists_eq_add_of_le' hm
    have hfirst : busFault u.cfg .word a = none := by
      rw [← cpWord_zero a]
      exact hf 0 (by omega)
    have hvalue : a.msb = false → (busWord (alignWord a) u).1 = wordAt u.mem (a.toNat / 4 * 4) := fun ha => by
      rw [(busWord_coherent hw hc ((alignWord_msb a).trans ha) (alignWord_mod_four a)).1, alignWord_toNat]
    have hread : PortAgrees cp s (busWord (alignWord a) u).2 :=
      hagree.trans (portAgrees_of_kept (by simp) (by simp [keepsPort]))
    have hnext := hread.look.moveWord (some (busWord (alignWord a) u).1)
    simp only [loadTransfer, busRead_alignWord hfirst, andThen_next]
    cases hlast : (look cp (busWord (alignWord a) u).2).cp.lines.last with
    | true =>
      exact ⟨_, [(busWord (alignWord a) u).1], if_pos rfl, by simp, by simp,
        wordsRead_cons.mpr ⟨hvalue, fun k hk => nomatch hk⟩, wholeTransfer_single _ hread hlast, hnext⟩
    | false =>
      have hlater (vs : List Word) (hlen : vs.length = m) (hvs : wordsRead u.mem (cpWord (a + 4)) vs) :=
        endsBy_step hread hmoved hlast
          (hends ((busWord (alignWord a) u).1 :: vs) (by simp [hlen]) (wordsRead_cons.mpr ⟨hvalue, hvs⟩))
      have hpos : 1 ≤ m := by
        rcases Nat.eq_zero_or_pos m with rfl | hpos
        · exact absurd (hlater [] rfl fun k hk => nomatch hk).1 (by simp)
        · exact hpos
      obtain ⟨t, vs, ht, hlo, hhi, hvs, hwhole, hend⟩ := ih (a := a + 4) hnext (by simp; omega) hpos (by omega)
        (by simpa using hw) (by simpa using busWord_keeps_coherent hw hc a)
        (fun k hk => by simpa [cpWord_succ] using hf (k + 1) (by omega))
        (fun vs hlen hvs => (hlater vs hlen (by simpa using hvs)).2)
      exact ⟨t, (busWord (alignWord a) u).1 :: vs, by rw [if_neg Bool.false_ne_true, ht], by simp, by simpa using hhi,
        wordsRead_cons.mpr ⟨hvalue, by simpa using hvs⟩, wholeTransfer_cons hread hlast hwhole, hend⟩

theorem exec_ldc_accepted {c : Cond} {p u n w : Bool} {rn : Reg} {crd : BitVec 4} {cp : Fin 16} {imm8 : Byte}
    {s : State} (hp : condPassed c s.cpsr = true) (hu : restrictCpTransfer p w rn = none)
    (hack : (ask cp (encode (.ldc c p u n w rn crd cp imm8)) s).1 = .ack) :
    exec (.ldc c p u n w rn crd cp imm8) s = andThen (loadTransfer cp 16 (cpStart p u rn imm8 s)
      (transferStart cp (encode (.ldc c p u n w rn crd cp imm8)) u w rn imm8 s)) complete := by
  change execLdc c p u n w rn crd cp imm8 s = _
  rw [execLdc, conditional_passed hu hp, handshake_ack hack, cpAddress_accepted]
  rfl

/-- Settles O51: the transfer goes as far as `last`, whatever the cache and the fetch before it did, and leaves all
but the port, the cache and the draws. -/
theorem loadCoprocessor : Obligations.LoadCoprocessor := by
  intro c p u n w rn crd cp imm8 s i a word hp hu hack hw hc m hm1 hm16 hf hends
  obtain ⟨hregs, hcfg, hmem, hcpsr, hpc, hspsr, hmul, hirq, hflush, hevents, -⟩ :=
    transferStart_frame cp (encode i) u w rn imm8 s
  obtain ⟨t, vs, ht, hlo, hhi, hvs, hwhole, hend⟩ := loadTransfer_effect (a := cpStart p u rn imm8 s)
    (transferStart_agrees cp (encode i) u w rn imm8 s) (by rw [accepted_moved]) hm1 hm16 (by rwa [hcfg])
    (transferStart_coherent cp (encode i) u w rn imm8 s hw hc) (by rw [hcfg]; exact hf) (by rw [hmem]; exact hends)
  obtain ⟨tcfg, tregs, tpc, tcpsr, tspsr, tmem, -, tflush, tirq, -, -, tmul, -, tevents, -⟩ :=
    loadTransfer_frame _ ht
  have hsent : t.cp.sent = vs := by
    rw [hend.port_map (·.sent) fun _ _ => rfl, transferLines_sent, accepted_sent]
    simp [List.flatMap_map]
  have hrequest : t.cp.request = false := by
    rw [hend.port_map (·.request) fun _ _ => rfl, transferLines_request _ (accepted_request ..)]
  have hexec := exec_ldc_accepted (crd := crd) hp hu hack
  rw [ht, andThen_next] at hexec
  rw [hmem] at hvs
  subst hsent
  refine ⟨_, hexec, hlo, hhi, hvs, hwhole, fun q => ?_, ?_, ?_, fun x => ?_, ?_, hrequest, hend.held, hend.answers⟩
  · rw [← hregs q, advance_regs, tregs]
  · rw [advance_cpsr, tcpsr, hcpsr]
  · rw [advance_pc, tpc, hpc]
  · rw [advance_mem, tmem, hmem]
  · simp [keepsSpecial, tspsr, hspsr, tmul, hmul, tirq, hirq, tflush, hflush, tevents, hevents, tcfg, hcfg]

end Sys2Proof.Machine
end

section
/-! SUPPORT. STC accepted (48_coprocessor.md R525, R527): the coprocessor's words stored until `last`, in memory or to a
peripheral (20_memory.md R111, R118). -/

namespace Sys2Proof.Machine

/-- Words written at `a`, `a + 4`, …: those in memory are there, those at a peripheral are events in order, every
other byte is as before. -/
structure WordsWritten (a : Word) (ds : List Word) (s t : State) : Prop where
  words : wordsRead t.mem (cpWord a) ds
  events : t.periphWrites = s.periphWrites ++ (List.range ds.length).filterMap fun k =>
    if (cpWord a k).msb then some (wordEvent (cpWord a k) (ds.getD k 0)) else none
  others : ∀ y, (∀ k, k < ds.length → (cpWord a k).msb = false → storeTouches .word (cpWord a k) y = false) →
    readByte t.mem y = readByte s.mem y

theorem wordsWritten_nil (a : Word) {s t : State} (hmem : t.mem = s.mem) (hevents : t.periphWrites = s.periphWrites) :
    WordsWritten a [] s t :=
  ⟨fun _ hk => (nomatch hk), by simp [hevents], fun _ _ => by rw [hmem]⟩

/-- One word written, in the state `u`, then the rest, which are other words. -/
theorem WordsWritten.cons {a d : Word} {ds : List Word} {s u t : State} (hm : Memory.wf s.mem) (hlen : ds.length ≤ 15)
    (hmem : u.mem = (storeEffect .word a d s).mem) (hperiph : u.periphWrites = (storeEffect .word a d s).periphWrites)
    (h : WordsWritten (a + 4) ds u t) : WordsWritten a (d :: ds) s t := by
  obtain ⟨hwords, hevents, hothers⟩ := h
  obtain ⟨hmemory, hperipheral⟩ := writes_of_storeEffect hm hmem hperiph
  refine ⟨wordsRead_cons.mpr ⟨fun ha => ?_, hwords⟩, ?_, fun y hy => ?_⟩
  · obtain ⟨hstored, -⟩ := hmemory ha
    rw [← wordAt_of_storedBytes hstored]
    exact wordAt_congr fun x hlo hhi => (hothers x fun k hk _ =>
      storeTouches_otherWord (cpWord_otherWord a (by omega)) hlo hhi).symm
  · rw [hevents, List.length_cons, List.range_succ_eq_map, List.filterMap_cons, List.filterMap_map]
    simp only [Function.comp_def, cpWord_zero, cpWord_succ, List.getD_cons_zero, List.getD_cons_succ]
    cases ha : a.msb with
    | false =>
      obtain ⟨-, hsame⟩ := hmemory ha
      rw [hsame]
      rfl
    | true =>
      obtain ⟨-, hevent⟩ := hperipheral ha
      rw [hevent, List.append_assoc]
      rfl
  · have hrest : readByte t.mem y = readByte u.mem y := hothers y fun k hk hk' => by
      rw [← cpWord_succ] at hk' ⊢
      exact hy (k + 1) (by simpa using hk) hk'
    rw [hrest]
    cases ha : a.msb with
    | false =>
      obtain ⟨⟨-, hsame⟩, -⟩ := hmemory ha
      have hfirst := hy 0 (by simp)
      rw [cpWord_zero] at hfirst
      exact hsame y (hfirst ha)
    | true =>
      obtain ⟨hsame, -⟩ := hperipheral ha
      exact hsame y

/-- The transfer of an STC from a state whose port agrees with that of `s`: where the addresses it may need are
served, the words the coprocessor gives are stored, up to the one with `last`. -/
theorem storeTransfer_effect {cp : Fin 16} {n m : Nat} {a : Word} {s u : State} (hagree : PortAgrees cp s u)
    (hmoved : s.cp.moved + n = 16) (hm : 1 ≤ m) (hmn : m ≤ n) (hwf : Memory.wf u.mem)
    (hf : ∀ k, k < m → storeFault u.cfg u.pc .word (cpWord a k) = none)
    (hends : endsBy cp n (List.replicate m none) s) :
    ∃ t ds, storeTransfer cp n a u = .next t ∧ 1 ≤ ds.length ∧ ds.length ≤ m ∧
      wholeTransfer cp (List.replicate ds.length none) s ∧
      (settled cp ds.length s → ds = (transferLines cp (List.replicate ds.length none) s).1.map (·.dataIn)) ∧
      WordsWritten a ds u t ∧ PortAgrees cp (transferLines cp (List.replicate ds.length none) s).2 t := by
  induction n generalizing m a s u with
  | zero => omega
  | succ n ih =>
    obtain ⟨m, rfl⟩ := Nat.exists_eq_add_of_le' hm
    have hfirst : storeFault u.cfg u.pc .word a = none := by
      rw [← cpWord_zero a]
      exact hf 0 (by omega)
    have hwrite : busWrite .word a (look cp u).cp.lines.dataIn (look cp u) =
        .next (storeEffect .word a (look cp u).cp.lines.dataIn (look cp u)) :=
      (busWrite_eq_next _).mpr ⟨by simpa using hfirst, rfl⟩
    have hstored : PortAgrees cp (look cp s) (storeEffect .word a (look cp u).cp.lines.dataIn (look cp u)) :=
      hagree.look.trans (portAgrees_of_kept (by simp) (by simp [keepsPort]))
    have hnext := hstored.moveWord none
    have hdata (h : settled cp 1 s) : (look cp u).cp.lines.dataIn = (look cp s).cp.lines.dataIn := by
      rw [hagree.look_eq h]
    simp only [storeTransfer, hwrite, andThen_next]
    cases hlast : (look cp u).cp.lines.last with
    | true =>
      refine ⟨_, [(look cp u).cp.lines.dataIn], if_pos rfl, by simp, by simp, wholeTransfer_single none hagree hlast,
        fun h => congrArg ([·]) (hdata h), ?_, hnext⟩
      exact (wordsWritten_nil (a + 4) rfl rfl).cons hwf (by simp) (by simp) (by simp)
    | false =>
      obtain ⟨hpos, hends⟩ := endsBy_step hagree hmoved hlast hends
      rw [List.length_replicate] at hpos
      obtain ⟨t, ds, ht, hlo, hhi, hwhole, hds, hwritten, hend⟩ := ih (a := a + 4) hnext (by simp; omega) hpos
        (by omega) (by simpa using storeEffect_wf (s := look cp u) (by simpa using hwf) .word a _)
        (fun k hk => by simpa [cpWord_succ] using hf (k + 1) (by omega)) hends
      refine ⟨t, (look cp u).cp.lines.dataIn :: ds, by rw [if_neg Bool.false_ne_true, ht], by simp,
        by simpa using hhi, wholeTransfer_cons hagree hlast hwhole, fun h => ?_, ?_, hend⟩
      · obtain ⟨h1, hlater⟩ := settled_step none h
        exact congrArg₂ List.cons (hdata h1) (hds hlater)
      · exact hwritten.cons hwf (by omega) (by simp) (by simp)

theorem exec_stc_accepted {c : Cond} {p u n w : Bool} {rn : Reg} {crd : BitVec 4} {cp : Fin 16} {imm8 : Byte}
    {s : State} (hp : condPassed c s.cpsr = true) (hu : restrictCpTransfer p w rn = none)
    (hack : (ask cp (encode (.stc c p u n w rn crd cp imm8)) s).1 = .ack) :
    exec (.stc c p u n w rn crd cp imm8) s = andThen (storeTransfer cp 16 (cpStart p u rn imm8 s)
      (transferStart cp (encode (.stc c p u n w rn crd cp imm8)) u w rn imm8 s)) complete := by
  change execStc c p u n w rn crd cp imm8 s = _
  rw [execStc, conditional_passed hu hp, handshake_ack hack, cpAddress_accepted]
  rfl

/-- Settles O52: the words stored are those of the lines seen up to `last`; the fetch before the transfer does not
bear on them. -/
theorem storeCoprocessor : Obligations.StoreCoprocessor := by
  intro c p u n w rn crd cp imm8 s i a word hp hu hack hwf m hm1 hm16 hf hends
  obtain ⟨hregs, hcfg, hmem, hcpsr, hpc, hspsr, hmul, hirq, hflush, hperiph, -⟩ :=
    transferStart_frame cp (encode i) u w rn imm8 s
  obtain ⟨t, ds, ht, hlo, hhi, hwhole, hds, ⟨hwords, hevents, hothers⟩, hend⟩ :=
    storeTransfer_effect (a := cpStart p u rn imm8 s) (transferStart_agrees cp (encode i) u w rn imm8 s)
      (by rw [accepted_moved]) hm1 hm16 (by rwa [hmem]) (by rw [hcfg, hpc]; exact hf) hends
  obtain ⟨tcfg, tregs, tpc, tcpsr, tspsr, -, tflush, tirq, -, -, tmul, -⟩ := storeTransfer_frame _ ht
  have hsent : t.cp.sent = [] := by
    rw [hend.port_map (·.sent) fun _ _ => rfl, transferLines_sent, accepted_sent]
    simp
  have hrequest : t.cp.request = false := by
    rw [hend.port_map (·.request) fun _ _ => rfl, transferLines_request _ (accepted_request ..)]
  have hexec := exec_stc_accepted (crd := crd) hp hu hack
  rw [ht, andThen_next] at hexec
  rw [hmem] at hothers
  rw [hperiph] at hevents
  refine ⟨_, hexec, ds, hlo, hhi, hwhole, hds, hwords, hevents, hothers, fun q => ?_, ?_, ?_, ?_, hrequest, hsent,
    hend.held, hend.answers⟩
  · rw [← hregs q, advance_regs, tregs]
  · rw [advance_cpsr, tcpsr, hcpsr]
  · rw [advance_pc, tpc, hpc]
  · simp [keepsSpecial, tspsr, hspsr, tmul, hmul, tirq, hirq, tflush, hflush, tcfg, hcfg]

end Sys2Proof.Machine
end

section
/-! SUPPORT. Where an access and a store stop, in numbers (20_memory.md R101, R102, R110 to R112;
70_reset_and_hazards.md R620). -/

namespace Sys2Proof.Machine

/-! Addresses as numbers -/

theorem msb_eq_false_iff (a : Word) : a.msb = false ↔ a.toNat < 2 ^ 31 := by
  rw [BitVec.msb_eq_false_iff_two_mul_lt]
  omega

theorem msb_eq_true_iff (a : Word) : a.msb = true ↔ 2 ^ 31 ≤ a.toNat := by
  rw [BitVec.msb_eq_true_iff_two_mul_ge]
  omega

theorem busAddress_msb (w : Width) (a : Word) : (busAddress w a).msb = a.msb := by
  cases w
  case word => exact alignWord_msb a
  all_goals rfl

theorem busAddress_toNat (w : Width) (a : Word) :
    (busAddress w a).toNat = if w = .word then a.toNat / 4 * 4 else a.toNat := by
  cases w
  case word => exact alignWord_toNat a
  all_goals rfl

/-! The fault of an access -/

section
variable {cfg : Config} {w : Width} {cur a : Word}

theorem accessFault_memory (h : a.msb = false) :
    accessFault cfg a = if a.toNat < cfg.memLimit then none else some .outsideMemory := by
  simp [accessFault, h]

theorem accessFault_peripheral (h : a.msb = true) : accessFault cfg a =
    if ∃ p ∈ cfg.periphMap, p.base ≤ a.toNat ∧ a.toNat < p.base + p.size then none else some .outsidePeripherals := by
  simp [accessFault, h]

theorem busFault_odd (h : w = .half ∧ a.toNat % 2 = 1) : busFault cfg w a = some .oddHalfword := by
  have hbit : a.getLsbD 0 = true := by rw [bit_eq, decide_eq_true_iff]; omega
  rw [busFault, if_pos ⟨h.1, hbit⟩]

theorem busFault_not_odd (h : ¬ (w = .half ∧ a.toNat % 2 = 1)) :
    busFault cfg w a = accessFault cfg (busAddress w a) := by
  have hbit : ¬ (w = .half ∧ a.getLsbD 0 = true) := by
    rintro ⟨rfl, h0⟩
    rw [bit_eq, decide_eq_true_iff] at h0
    exact h ⟨rfl, by omega⟩
  rw [busFault, if_neg hbit]

/-- A half-word served starts at an even address (R112). -/
theorem not_odd_of_busFault (h : busFault cfg w a = none) : ¬ (w = .half ∧ a.toNat % 2 = 1) := fun hodd => by
  rw [busFault_odd hodd] at h
  cases h

/-- An access of memory that is served stands below `MEM_LIMIT` (R101). -/
theorem busAddress_lt_memLimit (h : busFault cfg w a = none) (hm : a.msb = false) :
    (busAddress w a).toNat < cfg.memLimit := by
  rw [busFault_not_odd (not_odd_of_busFault h), accessFault_memory (by rwa [busAddress_msb])] at h
  simpa using h

/-! The fault of a store -/

theorem inPrefetchWindow_iff (cur : Word) (x : Nat) :
    inPrefetchWindow cur x = true ↔ (x + 2 ^ 32 - (cur + 4).toNat) % 2 ^ 32 < 8 := by
  have hlt := (cur + 4).isLt
  rw [inPrefetchWindow, decide_eq_true_iff, BitVec.toNat_sub, BitVec.toNat_ofNat]
  omega

theorem storeInWindow_iff : storeInWindow cur w a = true ↔
    ∃ j, j < w.bytes ∧ (storeStart w a + j + 2 ^ 32 - (cur + 4).toNat) % 2 ^ 32 < 8 := by
  simp only [storeInWindow, List.any_eq_true, List.mem_range, inPrefetchWindow_iff]

theorem storeFault_of_busFault {e : Fault} (h : busFault cfg w a = some e) : storeFault cfg cur w a = some e := by
  simp [storeFault, h]

theorem storeFault_of_served (h : busFault cfg w a = none) :
    storeFault cfg cur w a = if storeInWindow cur w a then some .prefetchWindow else none := by
  simp [storeFault, h]

theorem storeInWindow_of_storeFault (h : storeFault cfg cur w a = none) : storeInWindow cur w a = false := by
  rw [storeFault_of_served (busFault_of_storeFault h)] at h
  simpa using h

end

end Sys2Proof.Machine
end

section
/-! SUPPORT. What an instruction does to memory, the cache and the control words: its accesses after the prefetch, then
it advances, or it jumps, or it holds (20_memory.md R101, R142 to R153; 40_sequencer.md R226, R236). -/

namespace Sys2Proof.Machine

/-- Everything the invariants speak of is as before: registers, status, the coprocessor port, the events and the draws
may differ. -/
@[simp] def sameCore (s t : State) : Prop :=
  t.cfg = s.cfg ∧ t.pc = s.pc ∧ t.mem = s.mem ∧ t.cache = s.cache ∧ t.pipe = s.pipe ∧ t.flushRequest = s.flushRequest ∧
  t.mul = s.mul ∧ t.pool = s.pool ∧ t.seq = s.seq

/-- What an instruction does between its prefetch and its end, one thing after another: nothing to memory and the cache,
a multiply, a read that is served, a store that is served and outside the prefetch window, a callback's writes outside
the window. -/
inductive Access : State → State → Prop
  | same {s t : State} (h : sameCore s t) : Access s t
  | multiplied {s : State} (g : Bool) (rm rs : Word) : Access s (useMulUnit g rm rs s)
  | read {s : State} {w : Width} {a : Word} (h : busFault s.cfg w a = none) : Access s (busWord (alignWord a) s).2
  | written {s : State} {w : Width} {a : Word} (v : Word) (h : storeFault s.cfg s.pc w a = none) :
      Access s (storeEffect w a v s)
  | called {s : State} {l : List Host.Cell} (h : ∀ c ∈ l, inPrefetchWindow s.pc c.1 = false) :
      Access s { s with mem := applyWrites s.cfg.memLimit s.mem l, flushRequest := true }
  | trans {s u t : State} (h : Access s u) (h' : Access u t) : Access s t

theorem Access.frame {s t : State} (h : Access s t) :
    t.cfg = s.cfg ∧ t.pc = s.pc ∧ t.pipe = s.pipe ∧ t.pool = s.pool ∧ t.seq = s.seq := by
  induction h with
  | same h =>
    obtain ⟨hcfg, hpc, -, -, hpipe, -, -, hpool, hseq⟩ := h
    exact ⟨hcfg, hpc, hpipe, hpool, hseq⟩
  | multiplied | read | written | called => simp
  | trans _ _ ih ih' =>
    obtain ⟨hcfg, hpc, hpipe, hpool, hseq⟩ := ih
    simpa [hcfg, hpc, hpipe, hpool, hseq] using ih'

/-- What an instruction does as a whole: it waits (48_coprocessor.md R512), or it prefetches, makes its accesses and
moves on (R62), or it makes its accesses, with a prefetch before them or without, and jumps, no flush asked for
(R236). -/
inductive Course (s t : State) : Prop
  | held (h : sameCore s t)
  | advanced {r u : State} (hr : sameCore s r) (hu : Access (prefetch r) u) (ht : t = advance u)
  | jumped {r u : State} {a : Word} (hr : sameCore s r) (hu : Access r u ∨ Access (prefetch r) u)
      (hflush : u.flushRequest = r.flushRequest) (ht : t = jump a u)

section
variable {s t u r : State}

theorem sameCore.refl (s : State) : sameCore s s := by simp

theorem sameCore.flushRequest (h : sameCore s t) : t.flushRequest = s.flushRequest := by
  obtain ⟨-, -, -, -, -, hflush, -⟩ := h
  exact hflush

theorem sameCore.trans (h : sameCore s u) (h' : sameCore u t) : sameCore s t := by
  obtain ⟨hcfg, hpc, hmem, hcache, hpipe, hflush, hmul, hpool, hseq⟩ := h
  simpa [hcfg, hpc, hmem, hcache, hpipe, hflush, hmul, hpool, hseq] using h'

theorem Course.of_same (h : Course u t) (hs : sameCore s u) : Course s t := by
  cases h with
  | held h => exact .held (hs.trans h)
  | advanced hr hu ht => exact .advanced (hs.trans hr) hu ht
  | jumped hr hu hflush ht => exact .jumped (hs.trans hr) hu hflush ht

/-- A control transfer from a state whose memory and cache are as before. -/
theorem jump_course {a : Word} (h : sameCore s u) : Course s (jump a u) :=
  .jumped (sameCore.refl s) (.inl (.same h)) h.flushRequest rfl

/-- An instruction that makes its accesses after the prefetch and moves on. -/
theorem complete_course (h : complete u = .next t) (hr : sameCore s r) (hu : Access (prefetch r) u) : Course s t := by
  cases h
  exact .advanced hr hu rfl

/-- An instruction that leaves memory and the cache to the prefetch. -/
theorem complete_same_course (h : complete u = .next t) (hr : sameCore s r) (hu : sameCore (prefetch r) u) :
    Course s t :=
  complete_course h hr (.same hu)

theorem raiseException_course {e : Exc} (h : raiseException e u = .next t) (hu : sameCore s u) : Course s t := by
  cases h
  exact jump_course (by simpa using hu)

theorem conditional_course {c : Cond} {why : Option Unpredictable} {k : State → Result}
    (h : conditional c why s k = .next t) (hk : k s = .next t → Course s t) : Course s t := by
  obtain ⟨-, ⟨-, rfl⟩ | ⟨-, h⟩⟩ := conditional_cases s h
  · exact complete_same_course rfl (sameCore.refl s) (sameCore.refl _)
  · exact hk h

theorem handshake_course {n : Fin 16} {w : Word} {go : State → Result} (h : handshake n w s go = .next t)
    (hgo : ∀ u, go u = .next t → Course u t) : Course s t := by
  obtain ⟨-, rfl⟩ | ⟨-, h⟩ | ⟨-, h⟩ := handshake_cases s h
  · exact .held (by simp)
  · exact raiseException_course h (by simp)
  · exact (hgo _ h).of_same (by simp)

/-! The operations of the meanings -/

theorem restoreCpsr_same (h : restoreCpsr s = .next t) : sameCore s t := by
  unfold restoreCpsr at h
  split at h
  · cases h
  · obtain ⟨m, -, h⟩ := andThen_eq_next.mp h
    cases h
    simp

theorem msrWrite_same {r : PsrSel} {mask : BitVec 4} {v : Word} (h : msrWrite r mask v s = .next t) : sameCore s t := by
  cases r with
  | cpsr =>
    simp only [msrWrite, msrControl] at h
    split at h
    · obtain ⟨m, -, h⟩ := andThen_eq_next.mp h
      cases h
      simp
    · cases h
      simp
  | spsr =>
    simp only [msrWrite] at h
    split at h
    · cases h
    · cases h
      simp

/-- A control transfer, with or without the CPSR restored, after the accesses of an instruction. -/
theorem restoringJump_course {a : Word} {sf : Bool} (hr : Access s u ∨ Access (prefetch s) u)
    (hflush : u.flushRequest = s.flushRequest)
    (h : (if sf then andThen (restoreCpsr u) fun v => .next (jump a v) else .next (jump a u)) = .next t) :
    Course s t := by
  split at h
  · obtain ⟨v, hv, h⟩ := andThen_eq_next.mp h
    cases h
    have hv := restoreCpsr_same hv
    have hf : v.flushRequest = s.flushRequest := hv.flushRequest.trans hflush
    exact .jumped (sameCore.refl s) (hr.imp (·.trans (.same hv)) (·.trans (.same hv))) hf rfl
  · cases h
    exact .jumped (sameCore.refl s) hr hflush rfl

theorem writePc_course {res : Word} {sf : Bool} (h : writePc res sf s = .next t) : Course s t := by
  unfold writePc at h
  split at h
  · cases h
  · exact restoringJump_course (.inl (.same (sameCore.refl s))) rfl h

theorem dataProcessing_course {op : AluOp} {sf : Bool} {a : Word} {rd : Reg} {op2 : Operand2}
    (h : dataProcessing op sf a rd op2 s = .next t) : Course s t := by
  unfold dataProcessing at h
  dsimp only at h
  split at h
  · exact writePc_course h
  · exact complete_same_course h (by simp) (sameCore.refl _)

theorem compareOp_course {op : AluOp} {rn : Reg} {op2 : Operand2} (h : compareOp op rn op2 s = .next t) : Course s t :=
  complete_same_course h (by simp) (sameCore.refl _)

theorem multiply_course {sf : Bool} {rd rs rm : Reg} {acc : Word} (h : multiply sf rd rs rm acc s = .next t) :
    Course s t :=
  complete_course h (sameCore.refl s)
    ((Access.multiplied false (readReg s rm) (readReg s rs)).trans (.same (by simp)))

theorem longMultiply_course {signed sf : Bool} {rdHi rdLo rs rm : Reg} {acc : DWord}
    (h : longMultiply signed sf rdHi rdLo rs rm acc s = .next t) : Course s t :=
  complete_course h (sameCore.refl s)
    ((Access.multiplied signed (readReg s rm) (readReg s rs)).trans (.same (by simp)))

theorem busRead_access {w : Width} {a : Word} {q : Word × State} (h : busRead w a s = .next q) : Access s q.2 := by
  obtain ⟨hserved, rfl⟩ := (busRead_eq_next s).mp h
  exact .read hserved

theorem busRead_flushRequest {w : Width} {a : Word} {q : Word × State} (h : busRead w a s = .next q) :
    q.2.flushRequest = s.flushRequest := by
  obtain ⟨-, rfl⟩ := (busRead_eq_next s).mp h
  simp

theorem busWrite_access {w : Width} {a v : Word} (h : busWrite w a v s = .next t) : Access s t := by
  obtain ⟨hserved, rfl⟩ := (busWrite_eq_next s).mp h
  exact .written v hserved

theorem load_course {w : Width} {x : Extend} {a : Address} {rn rd : Reg} (h : load w x a rn rd s = .next t) :
    Course s t := by
  obtain ⟨q, hq, h⟩ := andThen_eq_next.mp h
  have hread := busRead_access hq
  dsimp only at h
  split at h
  · unfold loadPc at h
    split at h
    · cases h
    · cases h
      exact .jumped (sameCore.refl s) (.inr (hread.trans (.same (by simp)))) (by simp [busRead_flushRequest hq]) rfl
  · exact complete_course h (sameCore.refl s) (hread.trans (.same (by simp)))

theorem store_course {w : Width} {a : Address} {rn rd : Reg} (h : store w a rn rd s = .next t) : Course s t := by
  obtain ⟨u, hu, h⟩ := andThen_eq_next.mp h
  exact complete_course h (sameCore.refl s) ((busWrite_access hu).trans (.same (by simp)))

theorem swap_course {w : Width} {rn rd rm : Reg} (h : swap w rn rd rm s = .next t) : Course s t := by
  obtain ⟨q, hq, h⟩ := andThen_eq_next.mp h
  obtain ⟨u, hu, h⟩ := andThen_eq_next.mp h
  exact complete_course h (sameCore.refl s) (((busRead_access hq).trans (busWrite_access hu)).trans (.same (by simp)))

theorem readMany_access {l : List Reg} {a : Word} {q : List (Reg × Word) × State} (h : readMany l a s = .next q) :
    Access s q.2 ∧ q.2.flushRequest = s.flushRequest := by
  induction l generalizing a s q with
  | nil => cases h; exact ⟨.same (sameCore.refl s), rfl⟩
  | cons i l ih =>
    obtain ⟨v, hv, h⟩ := andThen_eq_next.mp h
    obtain ⟨p, hp, h⟩ := andThen_eq_next.mp h
    cases h
    obtain ⟨hrest, hflush⟩ := ih hp
    exact ⟨(busRead_access hv).trans hrest, hflush.trans (busRead_flushRequest hv)⟩

theorem writeMany_access {l : List (Reg × Word)} {a : Word} (h : writeMany l a s = .next t) : Access s t := by
  induction l generalizing a s with
  | nil => cases h; exact .same (sameCore.refl _)
  | cons x l ih =>
    obtain ⟨v, hv, h⟩ := andThen_eq_next.mp h
    exact (busWrite_access hv).trans (ih h)

theorem assignMany_same (b : Bank) (l : List (Reg × Word)) (s : State) : sameCore s (assignMany b l s) := by
  induction l generalizing s with
  | nil => exact sameCore.refl s
  | cons x l ih => exact sameCore.trans (by simp) (ih (writeBank b x.1 x.2 s))

theorem finishLdm_course {sf : Bool} {target : Option Word} (h : finishLdm sf target u = .next t)
    (hu : Access (prefetch s) u) (hflush : u.flushRequest = s.flushRequest) : Course s t := by
  unfold finishLdm at h
  split at h
  · exact complete_course h (sameCore.refl s) hu
  · exact restoringJump_course (.inr hu) hflush h

theorem loadMultiple_course {m : BlockMode} {sf w : Bool} {rn : Reg} {list : BitVec 16}
    (h : loadMultiple m sf w rn list s = .next t) : Course s t := by
  obtain ⟨q, hq, h⟩ := andThen_eq_next.mp h
  obtain ⟨hread, hflush⟩ := readMany_access hq
  have hbase : sameCore q.2 (writeBack rn (blockAddress m w rn list s).wb q.2) := by simp
  have hregs := hbase.trans (assignMany_same (transferBank s (sf && !list.getLsbD 15)) q.1 _)
  exact finishLdm_course h (hread.trans (.same hregs)) (hregs.flushRequest.trans (by simp [hflush]))

theorem storeMultiple_course {m : BlockMode} {sf w : Bool} {rn : Reg} {list : BitVec 16}
    (h : storeMultiple m sf w rn list s = .next t) : Course s t := by
  obtain ⟨u, hu, h⟩ := andThen_eq_next.mp h
  exact complete_course h (sameCore.refl s) ((writeMany_access hu).trans (.same (by simp)))

theorem swiHook_access {key : Nat} (h : swiHook s.pc key s = .next t) : Access s t := by
  unfold swiHook at h
  dsimp only at h
  split at h
  · cases h
  · next hwindow =>
    cases h
    refine (Access.called (l := callbackWrites s.cfg (nextCallback key s).1) fun c hc => ?_).trans (.same (by simp))
    exact Bool.eq_false_iff.mpr fun hin => hwindow (List.any_eq_true.mpr ⟨c, hc, hin⟩)

theorem execSwi_course {c : Cond} {comment : BitVec 24} (h : execSwi c comment s = .next t) : Course s t := by
  refine conditional_course h fun h => ?_
  split at h
  · obtain ⟨u, hu, h⟩ := andThen_eq_next.mp h
    exact complete_course h (sameCore.refl s) (swiHook_access (by simpa using hu))
  · exact raiseException_course h (sameCore.refl s)

theorem execMrsSpsr_course {c : Cond} {rd : Reg} (h : execMrsSpsr c rd s = .next t) : Course s t := by
  refine conditional_course h fun h => ?_
  split at h
  · cases h
  · exact complete_same_course h (sameCore.refl s) (by simp)

/-- The end of either form of MSR. -/
theorem msr_course {r : PsrSel} {mask : BitVec 4} {v : Word}
    (h : andThen (msrWrite r mask v (prefetch s)) complete = .next t) : Course s t := by
  obtain ⟨u, hu, h⟩ := andThen_eq_next.mp h
  exact complete_same_course h (sameCore.refl s) (msrWrite_same hu)

theorem loadTransfer_access {n : Fin 16} {k : Nat} {a : Word} (h : loadTransfer n k a s = .next t) : Access s t := by
  induction k generalizing a s with
  | zero => cases h; exact .same (sameCore.refl _)
  | succ k ih =>
    obtain ⟨q, hq, h⟩ := andThen_eq_next.mp h
    have hstage : Access s (moveWord n (some q.1) (look n q.2)) := (busRead_access hq).trans (.same (by simp))
    dsimp only at h
    split at h
    · cases h; exact hstage
    · exact hstage.trans (ih h)

theorem storeTransfer_access {n : Fin 16} {k : Nat} {a : Word} (h : storeTransfer n k a s = .next t) : Access s t := by
  induction k generalizing a s with
  | zero => cases h; exact .same (sameCore.refl _)
  | succ k ih =>
    obtain ⟨q, hq, h⟩ := andThen_eq_next.mp h
    have hlook : Access s (look n s) := .same (by simp)
    have hstage : Access s (moveWord n none q) := (hlook.trans (busWrite_access hq)).trans (.same (by simp))
    dsimp only at h
    split at h
    · cases h; exact hstage
    · exact hstage.trans (ih h)

/-- The transfers of an LDC or STC, after the base is written. -/
theorem transfer_course {rn : Reg} {wb : Option Word} {k : State → Result}
    (hk : ∀ s t, k s = .next t → Access s t) (h : andThen (k (writeBack rn wb (prefetch s))) complete = .next t) :
    Course s t := by
  obtain ⟨q, hq, h⟩ := andThen_eq_next.mp h
  have hbase : Access (prefetch s) (writeBack rn wb (prefetch s)) := .same (by simp)
  exact complete_course h (sameCore.refl s) (hbase.trans (hk _ _ hq))

end

/-- Every instruction waits, makes its accesses and advances, or jumps. -/
theorem exec_course {i : Instr} {s t : State} (h : exec i s = .next t) : Course s t := by
  cases i
  all_goals dsimp only [exec] at h
  case b | bl =>
    refine conditional_course h fun h => ?_
    cases h
    exact jump_course (by simp)
  case swi => exact execSwi_course h
  case mul | mla => exact conditional_course h multiply_course
  case umull | umlal | smull | smlal => exact conditional_course h longMultiply_course
  case and | eor | sub | rsb | add | adc | sbc | rsc | orr | mov | bic | mvn =>
    exact conditional_course h dataProcessing_course
  case tst | teq | cmp | cmn => exact conditional_course h compareOp_course
  case ldr | ldrb | ldrt | ldrbt | ldrh | ldrsb | ldrsh => exact conditional_course h load_course
  case str | strb | strt | strbt | strh => exact conditional_course h store_course
  case ldmia | ldmib | ldmda | ldmdb => exact conditional_course h loadMultiple_course
  case stmia | stmib | stmda | stmdb => exact conditional_course h storeMultiple_course
  case swp | swpb => exact conditional_course h swap_course
  case mrsCpsr => exact conditional_course h fun h => complete_same_course h (sameCore.refl s) (by simp)
  case mrsSpsr => exact execMrsSpsr_course h
  case msrReg | msrImm => exact conditional_course h msr_course
  case cdp | mcr | mrc =>
    exact conditional_course h fun h => handshake_course h fun u h =>
      complete_same_course h (sameCore.refl u) (by simp)
  case ldc =>
    exact conditional_course h fun h => handshake_course h fun u h =>
      transfer_course (fun _ _ => loadTransfer_access) h
  case stc =>
    exact conditional_course h fun h => handshake_course h fun u h =>
      transfer_course (fun _ _ => storeTransfer_access) h
  case undefined => exact raiseException_course h (sameCore.refl s)

end Sys2Proof.Machine
end

section
/-! SUPPORT. The accesses of an instruction keep memory's form and bound, so every step does (20_memory.md R101). -/

namespace Sys2Proof.Machine

theorem memLimit_mod_four {cfg : Config} (h : Config.wf cfg) : cfg.memLimit % 4 = 0 := by
  obtain ⟨-, -, -, -, -, -, -, -, hlim, -⟩ := h
  exact Nat.mod_eq_zero_of_dvd (Nat.dvd_trans (Nat.dvd_mul_right 4 _) (Nat.dvd_of_mod_eq_zero hlim))

/-- Every byte of a store that memory serves lies below `MEM_LIMIT`. -/
theorem store_end_le_memLimit {cfg : Config} (hw : Config.wf cfg) {w : Width} {a : Word}
    (h : busFault cfg w a = none) (hm : a.msb = false) : storeStart w a + w.bytes ≤ cfg.memLimit := by
  have hlt := busAddress_lt_memLimit h hm
  have hlim := memLimit_mod_four hw
  rw [busAddress_toNat] at hlt
  cases w with
  | byte => exact hlt
  | half =>
    have hodd := not_odd_of_busFault h
    simp only [reduceCtorEq, if_false, true_and] at hlt hodd
    simp only [storeStart, Width.bytes]
    omega
  | word =>
    simp only [if_true] at hlt
    simp only [storeStart, Width.bytes]
    omega

theorem writeLanes_below {m : Memory} {limit : Nat} (h : Memory.below limit m) {a n : Nat} (ha : a + n ≤ limit)
    (d : Word) : Memory.below limit (writeLanes m a d n) := by
  induction n generalizing m a with
  | zero => exact h
  | succ n ih => exact ih (writeByte_below h (by omega) _) (by omega)

/-- The form of memory is about memory and its limit alone. -/
theorem memoryForm_of_eq {s t : State} (h : memoryForm s) (hcfg : t.cfg = s.cfg) (hmem : t.mem = s.mem) :
    memoryForm t := by
  rwa [memoryForm, hcfg, hmem]

theorem storeEffect_memoryForm {s : State} (hw : Config.wf s.cfg) (h : memoryForm s) {w : Width} {a : Word} (v : Word)
    (hs : busFault s.cfg w a = none) : memoryForm (storeEffect w a v s) := by
  refine ⟨storeEffect_wf h.1 w a v, ?_⟩
  rw [storeEffect_cfg, storeEffect_mem]
  split
  · exact h.2
  · next hm => exact writeLanes_below h.2 (store_end_le_memLimit hw hs (eq_false_of_ne_true hm)) _

theorem Access.memoryForm {s t : State} (h : Access s t) (hw : Config.wf s.cfg) (hm : memoryForm s) : memoryForm t := by
  induction h with
  | same h =>
    obtain ⟨hcfg, -, hmem, -⟩ := h
    exact memoryForm_of_eq hm hcfg hmem
  | multiplied => exact hm
  | read => exact memoryForm_of_eq hm (busWord_cfg ..) (busWord_mem ..)
  | written v h => exact storeEffect_memoryForm hw hm v (busFault_of_storeFault h)
  | called => exact ⟨applyWrites_wf hm.1 _ _, applyWrites_below hm.2 _⟩
  | trans h _ ih ih' => exact ih' (by rw [h.frame.1]; exact hw) (ih hw hm)

/-- Memory and the parameters after an instruction are those of the end of its accesses. -/
theorem Course.memoryForm {s t : State} (h : Course s t) (hw : Config.wf s.cfg) (hm : memoryForm s) :
    memoryForm t ∧ t.cfg = s.cfg := by
  have hstart {r : State} (hr : sameCore s r) :
      r.cfg = s.cfg ∧ Machine.memoryForm r ∧ Machine.memoryForm (prefetch r) := by
    obtain ⟨hcfg, -, hmem, -⟩ := hr
    have hr := memoryForm_of_eq hm hcfg hmem
    exact ⟨hcfg, hr, memoryForm_of_eq hr (prefetch_cfg r) (prefetch_mem r)⟩
  have hend {r u : State} (hr : r.cfg = s.cfg) (hform : Machine.memoryForm r) (hu : Access r u) :
      u.cfg = s.cfg ∧ Machine.memoryForm u :=
    ⟨hu.frame.1.trans hr, hu.memoryForm (by rwa [hr]) hform⟩
  cases h with
  | held h =>
    obtain ⟨hcfg, hform, -⟩ := hstart h
    exact ⟨hform, hcfg⟩
  | @advanced r u hr hu ht =>
    obtain ⟨hcfg, -, hpre⟩ := hstart hr
    obtain ⟨hcfg, hform⟩ := hend ((prefetch_cfg r).trans hcfg) hpre hu
    subst ht
    exact ⟨hform, hcfg⟩
  | @jumped r u a hr hu hflush ht =>
    obtain ⟨hcfg, hform, hpre⟩ := hstart hr
    obtain ⟨hcfg, hform⟩ := hu.elim (hend hcfg hform) (hend ((prefetch_cfg r).trans hcfg) hpre)
    subst ht
    exact ⟨memoryForm_of_eq hform (jump_cfg u a) (jump_mem u a), (jump_cfg u a).trans hcfg⟩

/-- Settles O59: a store that is served and a callback's write keep memory's form and bound, and nothing else writes
memory. -/
theorem stepKeepsMemoryForm : Obligations.StepKeepsMemoryForm := by
  intro s t hw hm h
  obtain ⟨-, rfl⟩ | ⟨-, e, -, rfl⟩ | ⟨-, -, h⟩ := step_cases rfl h
  · exact ⟨memoryForm_of_eq hm (sampleInput_cfg s) (sampleInput_mem s), sampleInput_cfg s⟩
  · have hcfg : (takeInterrupt e (beginStep (sampleInput s).2)).cfg = s.cfg := by simp [takeInterrupt]
    exact ⟨memoryForm_of_eq hm hcfg (by simp [takeInterrupt]), hcfg⟩
  · have hcfg : (makeCurrent (beginStep (sampleInput s).2)).cfg = s.cfg := by simp
    have hrun := memoryForm_of_eq (t := makeCurrent (beginStep (sampleInput s).2)) hm hcfg (by simp)
    obtain ⟨hform, ht⟩ := (exec_course h).memoryForm (by rwa [hcfg]) hrun
    exact ⟨hform, ht.trans hcfg⟩

end Sys2Proof.Machine
end

section
/-! SUPPORT. Which slot holds a line: at most one, the one `Read` finds; a fill keeps it so (20_memory.md R120 to
R127). -/

namespace Sys2Proof.Machine

/-! The geometry -/

theorem isPow2_dvd {m n : Nat} (hm : isPow2 m) (hn : isPow2 n) (h : m ≤ n) : m ∣ n := by
  rw [hm, hn] at h ⊢
  exact Nat.pow_dvd_pow 2 ((Nat.pow_le_pow_iff_right (by decide)).mp h)

theorem isPow2_two_pow (k : Nat) : isPow2 (2 ^ k) := by rw [isPow2, Nat.log2_two_pow]

theorem cacheLines_isPow2 {cfg : Config} (hw : Config.wf cfg) : isPow2 (cacheLines cfg) := by
  obtain ⟨hl, hc, -, hle, -⟩ := hw
  rw [hl, hc, Nat.pow_le_pow_iff_right (by decide)] at hle
  rw [cacheLines, hl, hc, Nat.pow_div hle (by decide)]
  exact isPow2_two_pow _

/-- The slots are `sets` indices by `wayCount` ways (R122 to R126). -/
theorem wayCount_mul_setCount {cfg : Config} (hw : Config.wf cfg) : wayCount cfg * setCount cfg = cacheLines cfg := by
  have hlines := cacheLines_isPow2 hw
  obtain ⟨-, -, hways, -, hle, -⟩ := hw
  unfold wayCount setCount
  cases cfg.cacheKind with
  | direct => exact Nat.one_mul _
  | associative => exact Nat.mul_one _
  | setAssociative => exact Nat.mul_div_cancel' (isPow2_dvd hways hlines hle)

theorem ways_pos {cfg : Config} (hw : Config.wf cfg) : 0 < cfg.ways := by
  obtain ⟨-, -, hways, -⟩ := hw
  exact isPow2_pos hways

theorem lineIndex_lt {cfg : Config} (hw : Config.wf cfg) (a : Nat) : lineIndex cfg a < setCount cfg :=
  Nat.mod_lt _ (setCount_pos hw)

theorem slotOf_lt {cfg : Config} (hw : Config.wf cfg) {way : Nat} (h : way < wayCount cfg) (a : Nat) :
    slotOf cfg way a < cacheLines cfg := by
  calc slotOf cfg way a < way * setCount cfg + setCount cfg := Nat.add_lt_add_left (lineIndex_lt hw a) _
    _ = (way + 1) * setCount cfg := (Nat.succ_mul ..).symm
    _ ≤ wayCount cfg * setCount cfg := Nat.mul_le_mul_right _ h
    _ = cacheLines cfg := wayCount_mul_setCount hw

/-- A slot of the address's index is the slot of its way. -/
theorem slot_eq_slotOf {cfg : Config} (hw : Config.wf cfg) {n a : Nat} (hn : n < cacheLines cfg)
    (hi : n % setCount cfg = lineIndex cfg a) :
    n / setCount cfg < wayCount cfg ∧ n = slotOf cfg (n / setCount cfg) a := by
  refine ⟨Nat.div_lt_of_lt_mul ?_, ?_⟩
  · rwa [Nat.mul_comm, wayCount_mul_setCount hw]
  · rw [slotOf, ← hi, Nat.div_add_mod']

/-- A slot holds the line of an address exactly when it has its index and its line its tag (R123 to R126). -/
theorem slotBase_eq_iff {cfg : Config} (hw : Config.wf cfg) {n a : Nat} {l : CacheLine} :
    slotBase cfg n l = lineBase cfg a ↔ n % setCount cfg = lineIndex cfg a ∧ l.tag = lineTag cfg a := by
  refine ⟨fun h => ?_, fun ⟨hi, ht⟩ => slotBase_eq hi ht⟩
  have hsize : 0 < 4 * cfg.lineWords := Nat.mul_pos (by decide) (isPow2_pos hw.1)
  have hnum : n % setCount cfg + setCount cfg * l.tag = lineNumber cfg a := by
    rw [Nat.add_comm, Nat.mul_comm]
    exact Nat.eq_of_mul_eq_mul_right hsize h
  obtain ⟨ht, hi⟩ := (Nat.div_mod_unique (setCount_pos hw)).mpr ⟨hnum, Nat.mod_lt _ (setCount_pos hw)⟩
  exact ⟨hi.symm, ht.symm⟩

/-! A table of slots with no line twice -/

/-- The slots rising and inside the table, no line held twice (R122, R127). -/
structure LinesOnce (cfg : Config) (l : List (Nat × CacheLine)) : Prop where
  rising : l.Pairwise (fun a b => a.1 < b.1)
  inside : ∀ x ∈ l, x.1 < cacheLines cfg
  distinct : l.Pairwise (fun a b => slotBase cfg a.1 a.2 ≠ slotBase cfg b.1 b.2)

theorem linesOnce_of_cacheForm {cfg : Config} {c : Cache} (h : cacheForm cfg c) : LinesOnce cfg c.lines := by
  obtain ⟨hs, hx, hd, -⟩ := h
  exact ⟨hs, fun x hm => (hx x hm).1, hd⟩

section
variable {cfg : Config} {l : List (Nat × CacheLine)} {n : Nat} {x : CacheLine}

/-- Two slots that hold one line are one slot. -/
theorem LinesOnce.unique (h : LinesOnce cfg l) {y z : Nat × CacheLine} (hy : y ∈ l) (hz : z ∈ l)
    (he : slotBase cfg y.1 y.2 = slotBase cfg z.1 z.2) : y = z := by
  exact List.Pairwise.forall_of_forall_of_flip (R := fun y z => slotBase cfg y.1 y.2 = slotBase cfg z.1 z.2 → y = z)
    (fun _ _ _ => rfl) (h.distinct.imp fun hne he => absurd he hne) (h.distinct.imp fun hne he => absurd he.symm hne)
    hy hz he

theorem slotLine_eq_some_iff (hs : l.Pairwise (fun a b => a.1 < b.1)) : slotLine l n = some x ↔ (n, x) ∈ l := by
  refine ⟨slotLine_mem, fun hm => ?_⟩
  induction l with
  | nil => cases hm
  | cons y rest ih =>
    obtain ⟨k, z⟩ := y
    obtain ⟨hfirst, hrest⟩ := List.pairwise_cons.mp hs
    obtain heq | hm := List.mem_cons.mp hm
    · cases heq
      simp [slotLine]
    · have hlt : k < n := hfirst _ hm
      rw [slotLine, if_neg (Nat.ne_of_lt hlt)]
      exact ih hrest hm

theorem slotLine_setSlot_same (l : List (Nat × CacheLine)) (n : Nat) (x : CacheLine) :
    slotLine (setSlot l n x) n = some x := by
  induction l with
  | nil => simp [setSlot, slotLine]
  | cons y rest ih =>
    obtain ⟨k, z⟩ := y
    unfold setSlot
    repeat' split
    · simp [slotLine]
    · simp [slotLine]
    · next hne => rw [slotLine, if_neg (Ne.symm hne), ih]

/-- In a rising table a slot filled replaces what it held. -/
theorem mem_setSlot_rising (hs : l.Pairwise (fun a b => a.1 < b.1)) {y : Nat × CacheLine} (h : y ∈ setSlot l n x) :
    y = (n, x) ∨ (y ∈ l ∧ y.1 ≠ n) := by
  induction l with
  | nil => exact .inl (by simpa [setSlot] using h)
  | cons z rest ih =>
    obtain ⟨k, v⟩ := z
    obtain ⟨hfirst, hrest⟩ := List.pairwise_cons.mp hs
    have hlt : ∀ y ∈ rest, k < y.1 := hfirst
    unfold setSlot at h
    split at h
    · next hk =>
      refine (List.mem_cons.mp h).imp_right fun h => ⟨h, ?_⟩
      obtain rfl | h := List.mem_cons.mp h
      · exact Nat.ne_of_gt hk
      · exact Nat.ne_of_gt (Nat.lt_trans hk (hlt y h))
    · split at h
      · next hk =>
        refine (List.mem_cons.mp h).imp_right fun h => ⟨List.mem_cons_of_mem _ h, ?_⟩
        rw [hk]
        exact Nat.ne_of_gt (hlt y h)
      · next hk =>
        obtain rfl | h := List.mem_cons.mp h
        · exact .inr ⟨List.mem_cons_self, Ne.symm hk⟩
        · exact (ih hrest h).imp_right fun ⟨h, hn⟩ => ⟨List.mem_cons_of_mem _ h, hn⟩

theorem setSlot_rising (hs : l.Pairwise (fun a b => a.1 < b.1)) (n : Nat) (x : CacheLine) :
    (setSlot l n x).Pairwise (fun a b => a.1 < b.1) := by
  induction l with
  | nil => simp [setSlot]
  | cons z rest ih =>
    obtain ⟨k, v⟩ := z
    obtain ⟨hfirst, hrest⟩ := List.pairwise_cons.mp hs
    unfold setSlot
    split
    · next hk =>
      refine List.pairwise_cons.mpr ⟨fun y hy => ?_, hs⟩
      obtain rfl | hy := List.mem_cons.mp hy
      · exact hk
      · exact Nat.lt_trans hk (hfirst y hy)
    · split
      · next hk => exact List.pairwise_cons.mpr ⟨hk ▸ hfirst, hrest⟩
      · next hlt hne =>
        refine List.pairwise_cons.mpr ⟨fun y hy => ?_, ih hrest⟩
        obtain rfl | hy := mem_setSlot hy
        · exact Nat.lt_of_le_of_ne (Nat.not_lt.mp hlt) (Ne.symm hne)
        · exact hfirst y hy

/-- A slot filled with a line that no other slot holds. -/
theorem LinesOnce.setSlot (h : LinesOnce cfg l) (hn : n < cacheLines cfg)
    (hone : ∀ y ∈ l, slotBase cfg y.1 y.2 = slotBase cfg n x → y.1 = n) : LinesOnce cfg (setSlot l n x) := by
  have hs := h.rising
  have hsorted := setSlot_rising hs n x
  refine ⟨hsorted, fun y hy => ?_, hsorted.imp_of_mem fun {y z} hy hz hlt he => ?_⟩
  · obtain rfl | hy := mem_setSlot hy
    · exact hn
    · exact h.inside y hy
  · obtain rfl | ⟨hy, hyn⟩ := mem_setSlot_rising hs hy
    · obtain rfl | ⟨hz, hzn⟩ := mem_setSlot_rising hs hz
      · exact Nat.lt_irrefl _ hlt
      · exact hzn (hone z hz he.symm)
    · obtain rfl | ⟨hz, -⟩ := mem_setSlot_rising hs hz
      · exact hyn (hone y hy he)
      · exact Nat.lt_irrefl _ (h.unique hy hz he ▸ hlt)

/-- The slot `Read` finds is the one that holds the address's line (R124 to R127). -/
theorem findSlot_eq_some_iff (hw : Config.wf cfg) {c : Cache} (h : LinesOnce cfg c.lines) {a : Nat} :
    findSlot cfg c a = some n ↔ ∃ x, (n, x) ∈ c.lines ∧ slotBase cfg n x = lineBase cfg a := by
  have hfound {m : Nat} (hm : findSlot cfg c a = some m) :
      ∃ x, (m, x) ∈ c.lines ∧ slotBase cfg m x = lineBase cfg a := by
    obtain ⟨⟨way, rfl⟩, x, hx, ht⟩ := findSlot_some hm
    exact ⟨x, slotLine_mem hx, slotBase_eq (slotOf_mod cfg way a) ht⟩
  refine ⟨hfound, fun ⟨x, hx, hb⟩ => ?_⟩
  obtain ⟨hi, ht⟩ := (slotBase_eq_iff hw).mp hb
  obtain ⟨hway, hslot⟩ := slot_eq_slotOf hw (h.inside _ hx) hi
  cases hfind : findSlot cfg c a with
  | none =>
    have hmiss := List.find?_eq_none.mp hfind n (List.mem_map.mpr ⟨_, List.mem_range.mpr hway, hslot.symm⟩)
    simp [(slotLine_eq_some_iff h.rising).mpr hx, ht] at hmiss
  | some m =>
    obtain ⟨y, hy, hby⟩ := hfound hfind
    exact congrArg (some ·.1) (h.unique hy hx (hby.trans hb.symm))

theorem findSlot_eq_none_iff (hw : Config.wf cfg) {c : Cache} (h : LinesOnce cfg c.lines) {a : Nat} :
    findSlot cfg c a = none ↔ ∀ y ∈ c.lines, slotBase cfg y.1 y.2 ≠ lineBase cfg a := by
  rw [Option.eq_none_iff_forall_ne_some]
  refine ⟨fun hn y hy hb => hn y.1 ((findSlot_eq_some_iff hw h).mpr ⟨y.2, hy, hb⟩), fun hy n hn => ?_⟩
  obtain ⟨x, hx, hb⟩ := (findSlot_eq_some_iff hw h).mp hn
  exact hy _ hx hb
end

/-! The slot of a fill -/

theorem rrGet_lt {l : List (Nat × Nat)} {b : Nat} (hb : 0 < b) (h : ∀ x ∈ l, x.2 < b) (n : Nat) : rrGet l n < b := by
  induction l with
  | nil => exact hb
  | cons x rest ih =>
    unfold rrGet
    split
    · exact h x List.mem_cons_self
    · exact ih fun y hy => h y (List.mem_cons_of_mem _ hy)

theorem mem_rrSet {l : List (Nat × Nat)} {n v : Nat} {y : Nat × Nat} (h : y ∈ rrSet l n v) :
    (y = (n, v) ∧ v ≠ 0) ∨ y ∈ l := by
  induction l with
  | nil =>
    unfold rrSet at h
    split at h
    · cases h
    · next hv => exact .inl ⟨List.mem_singleton.mp h, hv⟩
  | cons x rest ih =>
    obtain ⟨k, w⟩ := x
    unfold rrSet at h
    repeat' split at h
    all_goals simp only [List.mem_cons] at h ⊢
    · exact .inr h
    · exact h.elim (fun h => .inl ⟨h, ‹_›⟩) .inr
    · exact .inr (.inr h)
    · exact h.elim (fun h => .inl ⟨h, ‹_›⟩) (fun h => .inr (.inr h))
    · rcases h with h | h
      · exact .inr (.inl h)
      · exact (ih h).imp_right .inr

theorem rrSet_rising {l : List (Nat × Nat)} (hs : l.Pairwise (fun a b => a.1 < b.1)) (n v : Nat) :
    (rrSet l n v).Pairwise (fun a b => a.1 < b.1) := by
  induction l with
  | nil => unfold rrSet; split <;> simp
  | cons x rest ih =>
    obtain ⟨k, w⟩ := x
    obtain ⟨hfirst, hrest⟩ := List.pairwise_cons.mp hs
    unfold rrSet
    repeat' split
    · exact hs
    · next hk _ =>
      refine List.pairwise_cons.mpr ⟨fun y hy => ?_, hs⟩
      obtain rfl | hy := List.mem_cons.mp hy
      · exact hk
      · exact Nat.lt_trans hk (hfirst y hy)
    · exact hrest
    · next hk _ => exact List.pairwise_cons.mpr ⟨hk ▸ hfirst, hrest⟩
    · next hlt hne =>
      refine List.pairwise_cons.mpr ⟨fun y hy => ?_, ih hrest⟩
      obtain ⟨rfl, -⟩ | hy := mem_rrSet hy
      · exact Nat.lt_of_le_of_ne (Nat.not_lt.mp hlt) (Ne.symm hne)
      · exact hfirst y hy

section
variable {cfg : Config} {c : Cache}

/-- The slot a fill goes to has the address's index, and no other slot holds the line (R124 to R127). -/
theorem victimSlot_spec (hw : Config.wf cfg) (h : cacheForm cfg c) (a draws : Nat) :
    (victimSlot cfg c a draws).1 < cacheLines cfg ∧ (victimSlot cfg c a draws).1 % setCount cfg = lineIndex cfg a ∧
    ∀ y ∈ c.lines, slotBase cfg y.1 y.2 = lineBase cfg a → y.1 = (victimSlot cfg c a draws).1 := by
  have honce := linesOnce_of_cacheForm h
  have hslot {way : Nat} (hway : way < wayCount cfg) :
      slotOf cfg way a < cacheLines cfg ∧ slotOf cfg way a % setCount cfg = lineIndex cfg a :=
    ⟨slotOf_lt hw hway a, slotOf_mod cfg way a⟩
  have hpos := cacheLines_pos hw
  obtain ⟨-, -, -, -, hrr⟩ := h
  unfold victimSlot
  cases hfind : findSlot cfg c a with
  | some n =>
    obtain ⟨x, hx, hb⟩ := (findSlot_eq_some_iff hw honce).mp hfind
    refine ⟨honce.inside _ hx, ((slotBase_eq_iff hw).mp hb).1, fun y hy hby => ?_⟩
    exact congrArg Prod.fst (honce.unique hy hx (hby.trans hb.symm))
  | none =>
    have hnone : ∀ y ∈ c.lines, slotBase cfg y.1 y.2 ≠ lineBase cfg a := (findSlot_eq_none_iff hw honce).mp hfind
    refine and_assoc.mp ⟨?_, fun y hy hby => absurd hby (hnone y hy)⟩
    cases hk : cfg.cacheKind with
    | direct => exact hslot (by simp [wayCount, hk])
    | associative =>
      have hone {n : Nat} (hn : n < cacheLines cfg) : n < cacheLines cfg ∧ n % setCount cfg = lineIndex cfg a := by
        simp [hn, setCount, lineIndex, hk, Nat.mod_one]
      dsimp only
      split
      · next n hn => exact hone (List.mem_range.mp (List.mem_of_find?_eq_some hn))
      · exact hone (Nat.mod_lt _ hpos)
    | setAssociative =>
      have hways : ∀ x ∈ c.rr, x.2 < cfg.ways := fun x hx => by
        obtain ⟨-, -, hlt⟩ := hrr x hx
        exact hlt
      refine hslot ?_
      rw [wayCount, hk]
      exact rrGet_lt (ways_pos hw) hways _

/-- The counters after a fill's choice are rising and below `WAYS` (R126). -/
theorem victimSlot_rr (hw : Config.wf cfg) (h : cacheForm cfg c) (a draws : Nat) :
    (victimSlot cfg c a draws).2.1.Pairwise (fun a b => a.1 < b.1) ∧
    ∀ x ∈ (victimSlot cfg c a draws).2.1, x.1 < setCount cfg ∧ 0 < x.2 ∧ x.2 < cfg.ways := by
  obtain ⟨-, -, -, hkept⟩ := h
  unfold victimSlot
  split
  · exact hkept
  · split
    · exact hkept
    · split
      · exact hkept
      · exact hkept
    · refine ⟨rrSet_rising hkept.1 _ _, fun x hx => ?_⟩
      obtain ⟨rfl, hne⟩ | hx := mem_rrSet hx
      · exact ⟨lineIndex_lt hw a, Nat.pos_of_ne_zero hne, Nat.mod_lt _ (ways_pos hw)⟩
      · exact hkept.2 x hx

/-- A line installed is where `Read` looks, and held once (R120, R127). -/
theorem cacheWriteLine_linesOnce (hw : Config.wf cfg) (h : cacheForm cfg c) (a : Nat) (words : List Word)
    (draws : Nat) : LinesOnce cfg (cacheWriteLine cfg c a words draws).1.lines := by
  obtain ⟨hlt, hi, hone⟩ := victimSlot_spec hw h a draws
  refine (linesOnce_of_cacheForm h).setSlot hlt fun y hy hb => hone y hy (hb.trans ?_)
  exact slotBase_eq hi rfl

/-- A slot filled with a whole line of memory that no other slot holds keeps the cache's form. -/
theorem setSlot_cacheForm (h : cacheForm cfg c) {n : Nat} {x : CacheLine} (hx : x.words.length = cfg.lineWords)
    (hlim : slotBase cfg n x < cfg.memLimit) (honce : LinesOnce cfg (setSlot c.lines n x)) {rr : List (Nat × Nat)}
    (hrr : rr.Pairwise (fun a b => a.1 < b.1) ∧ ∀ x ∈ rr, x.1 < setCount cfg ∧ 0 < x.2 ∧ x.2 < cfg.ways) :
    cacheForm cfg { lines := setSlot c.lines n x, rr := rr } := by
  obtain ⟨-, hlines, -⟩ := h
  obtain ⟨hs, hb, hd⟩ := honce
  refine ⟨hs, fun y hy => ⟨hb y hy, ?_⟩, hd, hrr⟩
  obtain rfl | hy := mem_setSlot hy
  · exact ⟨hx, hlim⟩
  · exact (hlines y hy).2

/-- A line of memory installed keeps the cache's form. -/
theorem cacheWriteLine_cacheForm (hw : Config.wf cfg) (h : cacheForm cfg c) {a : Nat} {words : List Word}
    (hwords : words.length = cfg.lineWords) (ha : a < cfg.memLimit) (draws : Nat) :
    cacheForm cfg (cacheWriteLine cfg c a words draws).1 := by
  obtain ⟨-, hi, -⟩ := victimSlot_spec hw h a draws
  refine setSlot_cacheForm h hwords ?_ (cacheWriteLine_linesOnce hw h a words draws) (victimSlot_rr hw h a draws)
  rw [slotBase_eq hi rfl]
  exact Nat.lt_of_le_of_lt (Nat.div_mul_le_self a _) ha

end

/-! A line's words found again -/

section
variable {cfg : Config} {a k : Nat}

/-- A word of the line of number `n` (R123). -/
theorem lineNumber_word (n : Nat) (hk : k < cfg.lineWords) : lineNumber cfg (n * (4 * cfg.lineWords) + 4 * k) = n := by
  have hk4 : 4 * k < 4 * cfg.lineWords := by omega
  rw [Nat.mul_comm, lineNumber, Nat.mul_add_div (by omega), Nat.div_eq_of_lt hk4, Nat.add_zero]

theorem lineOffset_word (n : Nat) (hk : k < cfg.lineWords) : lineOffset cfg (n * (4 * cfg.lineWords) + 4 * k) = k := by
  have hword : (n * (4 * cfg.lineWords) + 4 * k) / 4 = k + cfg.lineWords * n := by
    rw [Nat.mul_left_comm, Nat.mul_comm n]
    omega
  rw [lineOffset, hword, Nat.add_mul_mod_self_left, Nat.mod_eq_of_lt hk]

/-- A word of a line has the line's base. -/
theorem lineBase_word (n : Nat) (hk : k < cfg.lineWords) :
    lineBase cfg (n * (4 * cfg.lineWords) + 4 * k) = n * (4 * cfg.lineWords) := by
  rw [lineBase, lineNumber_word n hk]

/-- The words of a resident line hit. -/
theorem cacheRead_resident (hw : Config.wf cfg) {c : Cache} (h : LinesOnce cfg c.lines) {n : Nat} {x : CacheLine}
    {w : Word} (hx : (n, x) ∈ c.lines) (hb : slotBase cfg n x = lineBase cfg a)
    (hword : x.words[lineOffset cfg a]? = some w) :
    cacheRead cfg c a = .hit w := by
  simp [cacheRead, (findSlot_eq_some_iff hw h).mpr ⟨x, hx, hb⟩, (slotLine_eq_some_iff h.rising).mpr hx, hword]

/-- Settles O53: the slot filled holds the line, so it is the one `Read` finds for each of its words. -/
theorem installedLineHits : Obligations.InstalledLineHits := by
  intro cfg c a n words hw h hlen k hk
  obtain ⟨-, hi, -⟩ := victimSlot_spec hw h a n
  have hk' : k < cfg.lineWords := hlen ▸ hk
  refine cacheRead_resident hw (cacheWriteLine_linesOnce hw h a words n) (slotLine_mem (slotLine_setSlot_same ..)) ?_ ?_
  · rw [slotBase_eq hi rfl]
    exact (lineBase_word _ hk').symm
  · rw [lineBase, lineOffset_word _ hk']
    exact List.getElem?_eq_getElem hk
end

end Sys2Proof.Machine
end

section
/-! SUPPORT. A store through a coherent cache: the resident word and the word of memory change alike (20_memory.md R148,
R151). -/

namespace Sys2Proof.Machine

/-! The word a store changes -/

theorem wordAt_eq_of_bytes {m : Memory} {a : Nat} {lane : Nat → Byte} (h : ∀ k, k < 4 → readByte m (a + k) = lane k) :
    wordAt m a = wordOfBytes (lane 0) (lane 1) (lane 2) (lane 3) := by
  rw [← h 0 (by decide), ← h 1 (by decide), ← h 2 (by decide), ← h 3 (by decide)]
  rfl

/-- A store writes lanes of the aligned word of its address (R115). -/
theorem storeStart_lanes (w : Width) (a : Word) :
    a.toNat / 4 * 4 ≤ storeStart w a ∧ storeStart w a + w.bytes ≤ a.toNat / 4 * 4 + 4 := by
  cases w <;> simp only [storeStart, Width.bytes] <;> omega

theorem readByte_storeBytes {m : Memory} (h : Memory.wf m) (w : Width) (a d : Word) (x : Nat) :
    readByte (storeBytes m w a d) x = if storeTouches w a x then byteOf d (x % 4) else readByte m x := by
  by_cases ht : storeStart w a ≤ x ∧ x < storeStart w a + w.bytes
  · rw [if_pos (by simpa [storeTouches] using ht)]
    exact readByte_writeLanes_same h _ _ _ ht.1 ht.2
  · rw [if_neg (by simpa [storeTouches] using ht)]
    exact readByte_writeLanes_other _ _ _ _ (by omega)

/-- The word at an aligned address after a store: the merged word at the store's own, as before elsewhere (R151). -/
theorem wordAt_storeBytes {m : Memory} (h : Memory.wf m) (w : Width) (a d : Word) {b : Nat} (hb : b % 4 = 0) :
    wordAt (storeBytes m w a d) b = if b = a.toNat / 4 * 4 then mergeLanes w a (wordAt m b) d else wordAt m b := by
  obtain ⟨hlo, hhi⟩ := storeStart_lanes w a
  split
  · refine wordAt_eq_of_bytes (lane := fun k => if storeStart w a % 4 ≤ k ∧ k < storeStart w a % 4 + w.bytes then
      byteOf d k else byteOf (wordAt m b) k) fun k hk => ?_
    have htouch : storeTouches w a (b + k) = true ↔ storeStart w a % 4 ≤ k ∧ k < storeStart w a % 4 + w.bytes := by
      simp only [storeTouches, Bool.and_eq_true, decide_eq_true_iff]
      omega
    rw [readByte_storeBytes h, byteOf_wordAt m b hk, show (b + k) % 4 = k by omega]
    simp only [htouch]
  · rw [wordAt_eq_of_bytes (lane := fun k => readByte m (b + k)) fun k hk => ?_]
    · rfl
    · rw [readByte_storeBytes h, if_neg]
      simp only [storeTouches, Bool.and_eq_true, decide_eq_true_iff]
      omega

/-! The line a store patches -/

theorem eq_wordsAt {m : Memory} {a n : Nat} {l : List Word} (hl : l.length = n)
    (h : ∀ k, k < n → l[k]? = some (wordAt m (a + 4 * k))) : l = wordsAt m a n := by
  refine List.ext_getElem? fun k => ?_
  by_cases hk : k < n
  · rw [h k hk, wordsAt_get hk]
  · rw [List.getElem?_eq_none (by omega), List.getElem?_eq_none (by simp; omega)]

section
variable {cfg : Config} {c : Cache} {m : Memory}

theorem slotBase_mod_four (n : Nat) (x : CacheLine) : slotBase cfg n x % 4 = 0 := by
  rw [slotBase, Nat.mul_left_comm]
  exact Nat.mul_mod_right ..

theorem lineBase_slotBase_word {k : Nat} (n : Nat) (x : CacheLine) (hk : k < cfg.lineWords) :
    lineBase cfg (slotBase cfg n x + 4 * k) = slotBase cfg n x :=
  lineBase_word _ hk

/-- A line with one of its words replaced. -/
def CacheLine.withWord (x : CacheLine) (k : Nat) (v : Word) : CacheLine := { x with words := x.words.set k v }

@[simp] theorem withWord_words (x : CacheLine) (k : Nat) (v : Word) : (x.withWord k v).words = x.words.set k v := rfl

@[simp] theorem slotBase_withWord (n : Nat) (x : CacheLine) (k : Nat) (v : Word) :
    slotBase cfg n (x.withWord k v) = slotBase cfg n x := rfl

/-- What the patch of a store does: nothing where the line is not resident, else its word takes the lanes written
(R148, R151). -/
theorem cachePatch_cases (hw : Config.wf cfg) (h : cacheForm cfg c) (w : Width) (a d : Word) :
    ((∀ y ∈ c.lines, slotBase cfg y.1 y.2 ≠ lineBase cfg (a.toNat / 4 * 4)) ∧ cachePatch cfg c w a d = c) ∨
    ∃ n x old, (n, x) ∈ c.lines ∧ slotBase cfg n x = lineBase cfg (a.toNat / 4 * 4) ∧
      x.words[lineOffset cfg (a.toNat / 4 * 4)]? = some old ∧
      cachePatch cfg c w a d = { c with
        lines := setSlot c.lines n (x.withWord (lineOffset cfg (a.toNat / 4 * 4)) (mergeLanes w a old d)) } := by
  have honce := linesOnce_of_cacheForm h
  obtain ⟨-, hlines, -⟩ := h
  cases hfind : findSlot cfg c (a.toNat / 4 * 4) with
  | none => exact .inl ⟨(findSlot_eq_none_iff hw honce).mp hfind, by simp [cachePatch, cacheRead, hfind]⟩
  | some n =>
    obtain ⟨x, hx, hb⟩ := (findSlot_eq_some_iff hw honce).mp hfind
    have hoff : lineOffset cfg (a.toNat / 4 * 4) < x.words.length := by
      obtain ⟨-, hlen, -⟩ := hlines _ hx
      rw [hlen]
      exact lineOffset_lt hw _
    have hread := cacheRead_resident hw honce hx hb (List.getElem?_eq_getElem hoff)
    have hslot := (slotLine_eq_some_iff honce.rising).mpr hx
    exact .inr ⟨n, x, _, hx, hb, List.getElem?_eq_getElem hoff, by
      simp [cachePatch, hread, cacheWriteWord, hfind, hslot, CacheLine.withWord]⟩

theorem cachePatch_cacheForm (hw : Config.wf cfg) (h : cacheForm cfg c) (w : Width) (a d : Word) :
    cacheForm cfg (cachePatch cfg c w a d) := by
  obtain ⟨-, hp⟩ | ⟨n, x, old, hx, -, -, hp⟩ := cachePatch_cases hw h w a d
  · rwa [hp]
  · have honce := linesOnce_of_cacheForm h
    obtain ⟨-, hlines, -, hrr⟩ := id h
    obtain ⟨hlt, hlen, hlim⟩ := hlines _ hx
    rw [hp]
    refine setSlot_cacheForm h (by simpa using hlen) (by simpa using hlim) (honce.setSlot hlt fun y hy hb => ?_) hrr
    exact congrArg Prod.fst (honce.unique hy hx hb)

/-- A store keeps the cache coherent (R150): the line that holds its word, and it alone, changes as memory does. -/
theorem cachePatch_coherent (hw : Config.wf cfg) (h : cacheForm cfg c) (hm : Memory.wf m) (hc : cacheCoherent cfg m c)
    (w : Width) (a d : Word) : cacheCoherent cfg (storeBytes m w a d) (cachePatch cfg c w a d) := by
  have hother {y : Nat × CacheLine} (hy : y ∈ c.lines)
      (hne : slotBase cfg y.1 y.2 ≠ lineBase cfg (a.toNat / 4 * 4)) :
      y.2.words = wordsAt (storeBytes m w a d) (slotBase cfg y.1 y.2) cfg.lineWords := by
    refine eq_wordsAt (by rw [hc y hy, wordsAt_length]) fun k hk => ?_
    have hword : slotBase cfg y.1 y.2 + 4 * k ≠ a.toNat / 4 * 4 := fun he =>
      hne (he ▸ (lineBase_slotBase_word y.1 y.2 hk).symm)
    have hmod := slotBase_mod_four (cfg := cfg) y.1 y.2
    rw [hc y hy, wordsAt_get hk, wordAt_storeBytes hm w a d (by omega), if_neg hword]
  obtain ⟨hnone, hp⟩ | ⟨n, x, old, hx, hb, hold, hp⟩ := cachePatch_cases hw h w a d
  · rw [hp]
    exact fun y hy => hother hy (hnone y hy)
  · have hwords : x.words = wordsAt m (slotBase cfg n x) cfg.lineWords := hc _ hx
    have hoff := lineOffset_lt hw (a.toNat / 4 * 4)
    have haddr := lineBase_add_offset cfg (Nat.mul_mod_left (a.toNat / 4) 4)
    rw [← hb] at haddr
    rw [hwords, wordsAt_get hoff, haddr] at hold
    cases hold
    have hpatched : x.words.set (lineOffset cfg (a.toNat / 4 * 4)) (mergeLanes w a (wordAt m (a.toNat / 4 * 4)) d) =
        wordsAt (storeBytes m w a d) (slotBase cfg n x) cfg.lineWords := by
      refine eq_wordsAt (by simp [hwords]) fun k hk => ?_
      have hmod := slotBase_mod_four (cfg := cfg) n x
      rw [wordAt_storeBytes hm w a d (by omega), List.getElem?_set, hwords, wordsAt_length, wordsAt_get hk]
      by_cases hk' : lineOffset cfg (a.toNat / 4 * 4) = k
      · rw [if_pos hk', if_pos hoff, if_pos (by omega), ← haddr, hk']
      · rw [if_neg hk', if_neg (by omega)]
    rw [hp]
    intro y hy
    obtain rfl | ⟨hy, hyn⟩ := mem_setSlot_rising h.1 hy
    · exact hpatched
    · refine hother hy fun he => hyn ?_
      exact congrArg Prod.fst ((linesOnce_of_cacheForm h).unique hy hx (he.trans hb.symm))

end

end Sys2Proof.Machine
end

section
/-! SUPPORT. What memory and the cache hold through an instruction: the accesses keep their forms and their agreement, a
fetch brings what memory holds, and the words already fetched are not written (20_memory.md R127, R150, R162;
70_reset_and_hazards.md R620). -/

namespace Sys2Proof.Machine

/-! The multiply unit's digit counter -/

theorem fourStageBooth_k (m : MulUnit) : (fourStageBooth m).k = m.k + 4 := by
  simp [fourStageBooth, boothStep]

theorem boothLoop_k_le (fuel : Nat) (m : MulUnit) : (boothLoop fuel m).1.k ≤ m.k + 4 * fuel := by
  induction fuel generalizing m with
  | zero => exact Nat.le_refl _
  | succ fuel ih =>
    have hrest := ih (fourStageBooth m)
    rw [fourStageBooth_k] at hrest
    simp only [boothLoop]
    split
    · rw [fourStageBooth_k]
      omega
    · dsimp only
      omega

/-- A multiply ends with the accumulators cleared, after at most 20 digits (44_multiply.md R379, R382). -/
theorem useMulUnit_mulIdle (g : Bool) (rm rs : Word) (s : State) : mulIdle (useMulUnit g rm rs s) :=
  ⟨rfl, rfl, rfl, rfl, boothLoop_k_le 5 (boothInit g rm rs)⟩

/-! What the invariant says apart from the pipe -/

/-- The invariant of an instruction boundary but for the pc and the pipe. -/
structure StoreInv (s : State) : Prop where
  cfg : Config.wf s.cfg
  mem : memoryForm s
  cache : cacheForm s.cfg s.cache
  sound : cacheSound s
  mul : mulIdle s
  pool : poolForm s

section
variable {s t : State}

theorem StoreInv.of_eq (h : StoreInv s) (hcfg : t.cfg = s.cfg) (hmem : t.mem = s.mem) (hcache : t.cache = s.cache)
    (hflush : t.flushRequest = s.flushRequest) (hmul : t.mul = s.mul) (hpool : t.pool = s.pool) (hseq : t.seq = s.seq) :
    StoreInv t where
  cfg := by rw [hcfg]; exact h.cfg
  mem := memoryForm_of_eq h.mem hcfg hmem
  cache := by rw [hcfg, hcache]; exact h.cache
  sound := by rw [cacheSound, hcfg, hmem, hcache, hflush]; exact h.sound
  mul := by rw [mulIdle, hmul]; exact h.mul
  pool := by rw [poolForm, unexecuted, hcfg, hpool, hseq]; exact h.pool

theorem StoreInv.of_same (h : StoreInv s) (hs : sameCore s t) : StoreInv t := by
  obtain ⟨hcfg, -, hmem, hcache, -, hflush, hmul, hpool, hseq⟩ := hs
  exact h.of_eq hcfg hmem hcache hflush hmul hpool hseq

theorem StoreInv.coherent (h : StoreInv s) (hf : s.flushRequest = false) : cacheCoherent s.cfg s.mem s.cache :=
  h.sound.resolve_left (by simp [hf])

/-- A read of memory through the cache: a hit leaves it, a miss installs the line of memory. -/
theorem StoreInv.cachedWord (h : StoreInv s) {a : Nat} (ha : a % 4 = 0) (hlim : a < s.cfg.memLimit) :
    StoreInv (cachedWord a s).2 where
  cfg := by simpa only [cachedWord_cfg] using h.cfg
  mem := memoryForm_of_eq h.mem (cachedWord_cfg ..) (cachedWord_mem ..)
  cache := by
    rw [cachedWord_cfg]
    unfold Machine.cachedWord
    split
    · dsimp only
      split <;> exact h.cache
    · exact cacheWriteLine_cacheForm h.cfg h.cache (wordsAt_length ..) hlim s.draws
  sound := by
    rw [cacheSound, cachedWord_flushRequest, cachedWord_cfg, cachedWord_mem]
    exact h.sound.imp_right fun hc => (cachedWord_coherent h.cfg hc ha).2
  mul := by simpa only [mulIdle, cachedWord_mul] using h.mul
  pool := by simpa only [poolForm, unexecuted, cachedWord_pool, cachedWord_seq, cachedWord_cfg] using h.pool

/-- A fetch, poisoned or through the cache. -/
theorem StoreInv.fetch (h : StoreInv s) (a : Word) : StoreInv (fetch a s).2 := by
  unfold Machine.fetch
  split
  · exact h
  · next hin =>
    have hlim : a.toNat < s.cfg.memLimit := by simp at hin; exact hin.2
    refine h.cachedWord (alignWord_mod_four a) ?_
    rw [alignWord_toNat]
    omega

theorem StoreInv.prefetch (h : StoreInv s) : StoreInv (prefetch s) :=
  (h.fetch s.pipe.fetchAddr).of_eq rfl rfl rfl rfl rfl rfl rfl

theorem StoreInv.refill1 (h : StoreInv s) : StoreInv (refill1 s) :=
  (h.fetch s.pipe.fetchAddr).of_eq rfl rfl rfl rfl rfl rfl rfl

theorem StoreInv.jump (h : StoreInv s) (a : Word) : StoreInv (jump a s) :=
  (h.of_eq (t := setPc a s) rfl rfl rfl rfl rfl rfl rfl).refill1.prefetch

/-- A data read that is served. -/
theorem StoreInv.busWord (h : StoreInv s) {w : Width} {a : Word} (hs : busFault s.cfg w a = none) :
    StoreInv (busWord (alignWord a) s).2 := by
  unfold Machine.busWord
  split
  · exact h.of_eq rfl rfl rfl rfl rfl rfl rfl
  · next hm =>
    rw [alignWord_msb] at hm
    have hlt := busAddress_lt_memLimit hs (eq_false_of_ne_true hm)
    refine h.cachedWord (alignWord_mod_four a) ?_
    rw [busAddress_toNat] at hlt
    rw [alignWord_toNat]
    split at hlt <;> omega

/-- A store that is served, in memory and its resident word alike, or at a peripheral. -/
theorem StoreInv.storeEffect (h : StoreInv s) {w : Width} {a : Word} (v : Word) (hs : busFault s.cfg w a = none) :
    StoreInv (storeEffect w a v s) := by
  have hmem := storeEffect_memoryForm h.cfg h.mem v hs
  unfold Machine.storeEffect at hmem ⊢
  dsimp only at hmem ⊢
  split
  · exact h.of_eq rfl rfl rfl rfl rfl rfl rfl
  · next hm =>
    rw [if_neg hm] at hmem
    exact { cfg := h.cfg, mem := hmem, mul := h.mul, pool := h.pool
            cache := cachePatch_cacheForm h.cfg h.cache w a _
            sound := h.sound.imp_right fun hc => cachePatch_coherent h.cfg h.cache h.mem.1 hc w a _ }

theorem Access.storeInv (h : Access s t) (hs : StoreInv s) : StoreInv t := by
  induction h with
  | same h => exact hs.of_same h
  | multiplied g rm rs =>
    exact { cfg := hs.cfg, mem := hs.mem, cache := hs.cache, sound := hs.sound, pool := hs.pool
            mul := useMulUnit_mulIdle g rm rs _ }
  | read h => exact hs.busWord h
  | written v h => exact hs.storeEffect v (busFault_of_storeFault h)
  | called h =>
    exact { cfg := hs.cfg, cache := hs.cache, sound := .inl rfl, mul := hs.mul, pool := hs.pool
            mem := (Access.called h).memoryForm hs.cfg hs.mem }
  | trans _ _ ih ih' => exact ih' (ih hs)

theorem Course.storeInv (h : Course s t) (hs : StoreInv s) : StoreInv t := by
  cases h with
  | held h => exact hs.of_same h
  | advanced hr hu ht =>
    subst ht
    exact (hu.storeInv (hs.of_same hr).prefetch).of_eq rfl rfl rfl rfl rfl rfl rfl
  | jumped hr hu hflush ht =>
    subst ht
    have hr := hs.of_same hr
    exact (hu.elim (·.storeInv hr) (·.storeInv hr.prefetch)).jump _

/-! The words already fetched -/

/-- No access writes a byte of the prefetch window (70_reset_and_hazards.md R620). -/
theorem Access.readByte_window (h : Access s t) {x : Nat} (hx : inPrefetchWindow s.pc x = true) :
    readByte t.mem x = readByte s.mem x := by
  induction h with
  | same h =>
    obtain ⟨-, -, hmem, -⟩ := h
    rw [hmem]
  | multiplied => rfl
  | read => rw [busWord_mem]
  | @written s w a v h =>
    rw [storeEffect_mem]
    split
    · rfl
    · have houtside := List.any_eq_false.mp (storeInWindow_of_storeFault h)
      refine readByte_writeLanes_other _ _ _ _ (Decidable.byContradiction fun hin => ?_)
      have hx' : storeStart w a + (x - storeStart w a) = x := by omega
      exact houtside (x - storeStart w a) (List.mem_range.mpr (by omega)) (by rwa [hx'])
  | called h =>
    refine readByte_applyWrites_other _ fun c hc _ he => ?_
    rw [← he, h c hc] at hx
    cases hx
  | trans h _ ih ih' =>
    obtain ⟨-, hpc, -⟩ := h.frame
    rw [ih' (by rwa [hpc]), ih hx]

/-- The bytes of the two words after the instruction's own are the prefetch window. -/
theorem inPrefetchWindow_word {cur b : Word} (hb : b = cur + 4 ∨ b = cur + 8) (ha : b.toNat % 4 = 0) {k : Nat}
    (hk : k < 4) : inPrefetchWindow cur (b.toNat + k) = true := by
  have hlt := b.isLt
  rw [inPrefetchWindow_iff]
  have hcur := cur.isLt
  have h4 : (cur + 4).toNat = (cur.toNat + 4) % 2 ^ 32 := BitVec.toNat_add ..
  have h8 : (cur + 8).toNat = (cur.toNat + 8) % 2 ^ 32 := BitVec.toNat_add ..
  obtain rfl | rfl := hb <;> omega

/-- What a fetch of the two words after the instruction's own gives is as before its accesses. -/
theorem Access.fetchedAt_window (h : Access s t) {b : Word} (hb : b = s.pc + 4 ∨ b = s.pc + 8) (ha : b.toNat % 4 = 0) :
    fetchedAt t.cfg t.mem b = fetchedAt s.cfg s.mem b := by
  have hbyte {k : Nat} (hk : k < 4) := h.readByte_window (inPrefetchWindow_word hb ha hk)
  have hword : wordAt t.mem b.toNat = wordAt s.mem b.toNat := wordAt_eq_of_bytes fun k hk => hbyte hk
  rw [fetchedAt, fetchedAt, hword, h.frame.1]

theorem StoreInv.fetch_word (h : StoreInv s) (hf : s.flushRequest = false) {a : Word} (ha : a.extractLsb' 0 2 = 0) :
    (Machine.fetch a s).1 = fetchedAt s.cfg s.mem a :=
  (fetch_coherent h.cfg (h.coherent hf) (lowBits_eq_zero.mp ha)).1

/-- The start of an instruction: the pipe filled with the words memory holds, no flush due (20_memory.md R162). -/
structure PipeReady (s : State) : Prop where
  aligned : pcAligned s
  fetchAddr : s.pipe.fetchAddr = s.pc + 8
  next : s.pipe.next = fetchedAt s.cfg s.mem s.pc
  ip : s.pipe.ip = fetchedAt s.cfg s.mem (s.pc + 4)
  flush : s.flushRequest = false

theorem PipeReady.of_same (h : PipeReady s) (hs : sameCore s t) : PipeReady t := by
  obtain ⟨haligned, hfetchAddr, hnext, hip, hflush⟩ := h
  obtain ⟨tcfg, tpc, tmem, -, tpipe, tflush, -⟩ := hs
  exact { aligned := by rwa [pcAligned, tpc]
          fetchAddr := by rw [tpipe, tpc, hfetchAddr]
          next := by rw [tpipe, tcfg, tmem, tpc, hnext]
          ip := by rw [tpipe, tcfg, tmem, tpc, hip]
          flush := tflush.trans hflush }

/-- After the prefetch the pipe holds the two words after the instruction's own (R226). -/
theorem PipeReady.prefetch (h : PipeReady s) (hs : StoreInv s) :
    (Machine.prefetch s).pipe.next = fetchedAt s.cfg s.mem (s.pc + 4) ∧
    (Machine.prefetch s).pipe.ip = fetchedAt s.cfg s.mem (s.pc + 8) := by
  rw [prefetch_ip, h.fetchAddr]
  exact ⟨h.ip, hs.fetch_word h.flush (aligned_add h.aligned (by decide))⟩

/-- The pipe's contents after an instruction, whose accesses write neither word (R162). -/
theorem Course.pipeContents (h : Course s t) (hs : StoreInv s) (hr : PipeReady s) (ht : pcAligned t) :
    pipeContents t := by
  cases h with
  | held h =>
    have hready := hr.of_same h
    exact fun _ => ⟨hready.next, hready.ip⟩
  | @advanced r u hru hu htu =>
    have hready := hr.of_same hru
    obtain ⟨hnext, hip⟩ := hready.prefetch (hs.of_same hru)
    obtain ⟨-, upc, upipe, -⟩ := hu.frame
    have hwindow {b : Word} (hb : b = r.pc + 4 ∨ b = r.pc + 8) : fetchedAt u.cfg u.mem b = fetchedAt r.cfg r.mem b := by
      have haligned : b.extractLsb' 0 2 = 0 := by
        obtain rfl | rfl := hb <;> exact aligned_add hready.aligned (by decide)
      rw [hu.fetchedAt_window (by simpa using hb) (lowBits_eq_zero.mp haligned), prefetch_cfg, prefetch_mem]
    subst htu
    intro _
    rw [advance_pipe, advance_cfg, advance_mem, show (advance u).pc = r.pc + 4 by simp [upc], upipe, BitVec.add_assoc]
    exact ⟨hnext.trans (hwindow (.inl rfl)).symm, hip.trans (hwindow (.inr rfl)).symm⟩
  | @jumped r u a hru hu hflush htu =>
    have hsr := hs.of_same hru
    have hsu := hu.elim (·.storeInv hsr) (·.storeInv hsr.prefetch)
    subst htu
    rw [pcAligned, jump_pc] at ht
    exact jump_pipeContents hsu.cfg (hsu.coherent (hflush.trans (hr.of_same hru).flush)) ht

end

end Sys2Proof.Machine
end

section
/-! SUPPORT. The invariant of an instruction boundary through a step: its start makes a due flush and fills the pipe,
and a reset, an interrupt or an instruction goes on from there. -/

namespace Sys2Proof.Machine

section
variable {s : State}

theorem storeInv_of_inv (h : Inv s) : StoreInv s := by
  obtain ⟨hcfg, -, -, -, hmem, hcache, hsound, hmul, hpool⟩ := h
  exact ⟨hcfg, hmem, hcache, hsound, hmul, hpool⟩

theorem StoreInv.inv (h : StoreInv s) (haligned : pcAligned s) (haddr : pipeAddresses s) (hin : pipeContents s) :
    Inv s :=
  ⟨h.cfg, haligned, haddr, hin, h.mem, h.cache, h.sound, h.mul, h.pool⟩

theorem cacheReset_cacheForm (cfg : Config) : cacheForm cfg cacheReset :=
  ⟨.nil, nofun, .nil, .nil, nofun⟩

theorem cacheReset_coherent (cfg : Config) (m : Memory) : cacheCoherent cfg m cacheReset := nofun

/-- A due flush empties the cache, which then agrees with memory (20_memory.md R128, R156). -/
theorem StoreInv.flushIfRequested (h : StoreInv s) : StoreInv (flushIfRequested s) := by
  unfold Machine.flushIfRequested
  split
  · exact { cfg := h.cfg, mem := h.mem, mul := h.mul, pool := h.pool
            cache := cacheReset_cacheForm s.cfg
            sound := .inr (cacheReset_coherent s.cfg s.mem) }
  · exact h

theorem flushIfRequested_flushRequest (s : State) : (flushIfRequested s).flushRequest = false := by
  unfold flushIfRequested
  split
  · rfl
  · exact eq_false_of_ne_true ‹_›

/-- The refill of an empty pipe fetches through the cache. -/
theorem StoreInv.refillIfEmpty (h : StoreInv s) : StoreInv (refillIfEmpty s) := by
  unfold Machine.refillIfEmpty
  split
  · exact h
  · exact h.jump s.pc

theorem refillIfEmpty_pipeContents (h : StoreInv s) (hf : s.flushRequest = false) (haligned : pcAligned s)
    (hin : pipeContents s) : pipeContents (refillIfEmpty s) := by
  unfold refillIfEmpty
  split
  · exact hin
  · exact jump_pipeContents h.cfg (h.coherent hf) haligned

theorem StoreInv.releaseQueues (h : StoreInv s) : StoreInv (releaseQueues s) :=
  { cfg := h.cfg, mem := h.mem, cache := h.cache, sound := h.sound, mul := h.mul
    pool := releaseQueues_poolForm h.pool }

/-- What the start of a step leaves to the instruction or the interrupt. -/
theorem beginStep_ready (h : Inv s) : StoreInv (beginStep s) ∧ PipeReady (beginStep s) := by
  have hs := storeInv_of_inv h
  obtain ⟨-, haligned, haddr, hin, -⟩ := h
  have hflushed := hs.flushIfRequested
  have hlatched : StoreInv (latchInterrupts s.lines (flushIfRequested s)) :=
    hflushed.of_eq rfl rfl rfl rfl rfl rfl rfl
  have hcontents := refillIfEmpty_pipeContents hlatched (flushIfRequested_flushRequest s)
    (by simpa [pcAligned] using haligned) (by simpa [pipeContents] using hin)
  obtain ⟨haddr', hvalid⟩ := beginStep_pipe haligned haddr
  obtain ⟨hnext, hip⟩ := hcontents hvalid
  refine ⟨hlatched.refillIfEmpty.releaseQueues, ?_⟩
  exact { aligned := by rwa [pcAligned, beginStep_pc]
          fetchAddr := (haddr' hvalid).2
          next := hnext
          ip := hip
          flush := by simpa [beginStep] using flushIfRequested_flushRequest s }

/-- A reset: the cache empty, the seed queued, memory as it was (70_reset_and_hazards.md R600). -/
theorem StoreInv.doReset (h : StoreInv s) : StoreInv (doReset s) where
  cfg := h.cfg
  mem := h.mem
  cache := cacheReset_cacheForm s.cfg
  sound := .inr (cacheReset_coherent s.cfg s.mem)
  mul := show mulIdle State.reset by decide
  pool := doReset_poolForm (by
    obtain ⟨-, -, -, -, -, -, -, -, -, -, -, -, -, -, hlen⟩ := h.cfg
    exact Nat.le_trans (by decide) hlen)

/-- An interrupt entry writes registers and status, then jumps to its vector (60_exceptions.md R550, R556). -/
theorem StoreInv.takeInterrupt (h : StoreInv s) (hf : s.flushRequest = false) (e : Exc) :
    StoreInv (takeInterrupt e s) ∧ pipeContents (takeInterrupt e s) := by
  have hsaved : StoreInv (saveState e (s.pc + 4) (clearPending e s)) := h.of_same (by simp)
  exact ⟨hsaved.jump _, jump_pipeContents hsaved.cfg (hsaved.coherent (by simpa using hf)) (vector_aligned e)⟩

theorem sampleInput_inv (h : Inv s) : Inv (sampleInput s).2 := by
  have hs := (storeInv_of_inv h).of_same (t := (sampleInput s).2) (by simp)
  obtain ⟨-, haligned, haddr, hin, -⟩ := h
  exact hs.inv (by simpa [pcAligned] using haligned) (by simpa [pipeAddresses] using haddr)
    (by simpa [pipeContents] using hin)

/-- An instruction becomes current: the queues, the pool and all else are as before. -/
theorem StoreInv.makeCurrent (h : StoreInv s) : StoreInv (makeCurrent s) :=
  { cfg := h.cfg, mem := h.mem, cache := h.cache, sound := h.sound, mul := h.mul, pool := h.pool }

theorem PipeReady.makeCurrent (h : PipeReady s) : PipeReady (makeCurrent s) :=
  { aligned := h.aligned, fetchAddr := h.fetchAddr, next := h.next, ip := h.ip, flush := h.flush }

end

/-- Settles O60: the start of a step leaves a filled pipe and a coherent cache; a reset, an interrupt entry and the
effect of an instruction keep the rest from there. -/
theorem stepKeepsInvariant : Obligations.StepKeepsInvariant := by
  intro s t h hstep
  have hin := sampleInput_inv h
  obtain ⟨-, haligned, haddr, -⟩ := h
  obtain ⟨taligned, taddr⟩ := stepKeepsThePipe s t haligned haddr hstep
  obtain ⟨hstore, hready⟩ := beginStep_ready hin
  obtain ⟨-, rfl⟩ | ⟨-, e, -, rfl⟩ | ⟨-, -, hexec⟩ := step_cases rfl hstep
  · exact (storeInv_of_inv hin).doReset.inv taligned taddr nofun
  · obtain ⟨hentered, hcontents⟩ := hstore.takeInterrupt hready.flush e
    exact hentered.inv taligned taddr hcontents
  · have hcourse := exec_course hexec
    exact (hcourse.storeInv hstore.makeCurrent).inv taligned taddr
      (hcourse.pipeContents hstore.makeCurrent hready.makeCurrent taligned)

end Sys2Proof.Machine
end

section
/-! SUPPORT. The cycles of a line fill: the setup's, then `BUS_SPEED` for each word (20_memory.md R143 to R146). -/

namespace Sys2Proof.Machine

section
variable {s : State}

theorem stallCycles_normal (fuel : Nat) (h : s.bus.wstate = .normal) : stallCycles fuel s = 0 := by
  cases fuel with
  | zero => rfl
  | succ fuel => simp [stallCycles, h]

theorem stallCycles_readingLine (fuel : Nat) (h : s.bus.wstate = .readingLine) :
    stallCycles (fuel + 1) s = stallCycles fuel (readingLineTick s) + 1 := by
  simp [stallCycles, h]

theorem stallCycles_setup (fuel : Nat) (h : s.bus.wstate = .readingLineSetup) :
    stallCycles (fuel + 1) s = stallCycles fuel (setupTick s) + 1 := by
  simp [stallCycles, h]

/-- One cycle of a penalty gone by. -/
def countDown (s : State) : State := { s with bus := { s.bus with penalty := s.bus.penalty - 1 } }

theorem readingLineTick_wait (h : 1 < s.bus.penalty) : readingLineTick s = countDown s := if_pos h

theorem readingLineTick_last (h : s.bus.penalty = 1) : readingLineTick s = fillWord s := if_neg (by omega)

theorem setupTick_wait (h : 1 < s.bus.penalty) : setupTick s = countDown s := if_pos h

theorem setupTick_last (h : s.bus.penalty = 1) : setupTick s = startLine s := if_neg (by omega)

/-- The last word of a line ends the stall (R145). -/
theorem fillWord_last (h : s.bus.fill.length + 1 = s.cfg.lineWords) : (fillWord s).bus.wstate = .normal := by
  rw [fillWord, if_neg (by simp; omega)]

/-- After another word the next one is under way (R145). -/
theorem fillWord_more (h : s.bus.fill.length + 1 < s.cfg.lineWords) :
    (fillWord s).cfg = s.cfg ∧ (fillWord s).bus.wstate = .readingLine ∧ (fillWord s).bus.penalty = s.cfg.busSpeed ∧
    (fillWord s).bus.fill.length = s.bus.fill.length + 1 := by
  rw [fillWord, if_pos (by simpa using h)]
  simp

/-- The word under way arrives and `r` more follow: what is left of this one and `BUS_SPEED` for each of those
(R145). -/
theorem stallCycles_of_readingLine {fuel r : Nat} (hbus : 1 ≤ s.cfg.busSpeed) (hs : s.bus.wstate = .readingLine)
    (hp : 1 ≤ s.bus.penalty) (hr : s.bus.fill.length + 1 + r = s.cfg.lineWords)
    (hfuel : s.bus.penalty + s.cfg.busSpeed * r ≤ fuel) :
    stallCycles fuel s = s.bus.penalty + s.cfg.busSpeed * r := by
  induction fuel generalizing s r with
  | zero => omega
  | succ fuel ih =>
    rw [stallCycles_readingLine fuel hs]
    obtain hwait | hlast : 1 < s.bus.penalty ∨ s.bus.penalty = 1 := by omega
    · have hrest := ih (s := countDown s) hbus hs (Nat.le_sub_of_add_le hwait) hr
        (by simp only [countDown]; omega)
      simp only [countDown] at hrest
      rw [readingLineTick_wait hwait, countDown, hrest]
      omega
    · rw [readingLineTick_last hlast, hlast, Nat.add_comm 1]
      cases r with
      | zero => rw [stallCycles_normal fuel (fillWord_last hr), Nat.mul_zero]
      | succ r =>
        obtain ⟨hcfg, hstate, hpenalty, hlen⟩ := fillWord_more (s := s) (by omega)
        rw [Nat.mul_succ] at hfuel
        rw [ih (r := r) (by rwa [hcfg]) hstate (by rwa [hpenalty]) (by rw [hlen, hcfg]; omega)
          (by rw [hpenalty, hcfg]; omega), hpenalty, hcfg, Nat.mul_succ, Nat.add_comm s.cfg.busSpeed]

/-- A line fill from its first word (R144, R145). -/
theorem stallCycles_startLine {fuel : Nat} (hbus : 1 ≤ s.cfg.busSpeed) (hline : 1 ≤ s.cfg.lineWords)
    (hfuel : s.cfg.busSpeed * s.cfg.lineWords ≤ fuel) :
    stallCycles fuel (startLine s) = s.cfg.busSpeed * s.cfg.lineWords := by
  obtain ⟨r, hr⟩ := Nat.exists_eq_add_of_le' hline
  rw [hr, Nat.mul_succ, Nat.add_comm] at hfuel ⊢
  exact stallCycles_of_readingLine (s := startLine s) hbus rfl hbus (by simp [startLine, hr, Nat.add_comm]) hfuel

/-- The setup penalty, then the fill (R144). -/
theorem stallCycles_of_setup {fuel : Nat} (hbus : 1 ≤ s.cfg.busSpeed) (hline : 1 ≤ s.cfg.lineWords)
    (hs : s.bus.wstate = .readingLineSetup) (hp : 1 ≤ s.bus.penalty)
    (hfuel : s.bus.penalty + s.cfg.busSpeed * s.cfg.lineWords ≤ fuel) :
    stallCycles fuel s = s.bus.penalty + s.cfg.busSpeed * s.cfg.lineWords := by
  induction fuel generalizing s with
  | zero => omega
  | succ fuel ih =>
    rw [stallCycles_setup fuel hs]
    obtain hwait | hlast : 1 < s.bus.penalty ∨ s.bus.penalty = 1 := by omega
    · have hrest := ih (s := countDown s) hbus hline hs (Nat.le_sub_of_add_le hwait) (by simp only [countDown]; omega)
      simp only [countDown] at hrest
      rw [setupTick_wait hwait, countDown, hrest]
      omega
    · rw [setupTick_last hlast, stallCycles_startLine hbus hline (by omega), hlast, Nat.add_comm]

end

/-- Settles O54: the cycle that finds the miss is the first of the setup, or without a penalty the first of the fill. -/
theorem missCost : Obligations.MissCost := by
  intro s a fuel hbus hline hfuel
  unfold missCycles at hfuel ⊢
  unfold missTick
  dsimp only
  split
  · next hzero =>
    rw [hzero, Nat.zero_add] at hfuel ⊢
    rw [← stallCycles_readingLine fuel rfl]
    exact stallCycles_startLine (s := { s with bus := _ }) hbus hline (Nat.le_succ_of_le hfuel)
  · next hsetup =>
    rw [← stallCycles_setup fuel rfl]
    exact stallCycles_of_setup (s := { s with bus := _ }) hbus hline rfl (Nat.pos_of_ne_zero hsetup)
      (Nat.le_succ_of_le hfuel)

end Sys2Proof.Machine
end

section
/-! SUPPORT. A poisoned fetch (20_memory.md R103, 40_sequencer.md R227). -/

namespace Sys2Proof.Machine

/-- A fetch of peripheral space or outside memory is poisoned (40_sequencer.md R227). -/
theorem fetchedAt_outside {cfg : Config} {a : Word} (m : Memory) (h : 2 ^ 31 ≤ a.toNat ∨ cfg.memLimit ≤ a.toNat) :
    (fetchedAt cfg m a).ok = false := by
  have hout : (a.msb || decide (cfg.memLimit ≤ a.toNat)) = true := by
    simp only [Bool.or_eq_true, decide_eq_true_iff, BitVec.msb_eq_true_iff_two_mul_ge]
    omega
  rw [fetchedAt, if_pos hout]

/-- Settles O8: the pipe holds a poisoned fetch. -/
theorem fetchOutsideMemoryStops : Obligations.FetchOutsideMemoryStops := by
  intro s hvalid hin hruns hout
  have hpipe : (beginStep (sampleInput s).2).pipe = s.pipe := by
    rw [beginStep_pipe_of_valid (by simpa using hvalid), sampleInput_pipe]
  rw [step_of_runsInstruction hruns, executeNext, hpipe, (hin hvalid).1, fetchedAt_outside s.mem hout]
  rfl

end Sys2Proof.Machine
end


section
/-! SUPPORT. Words as fields side by side: a word of the encoder is the word that reads back as its fields
(30_encoding.md R170 to R187). -/

namespace Sys2Proof

/-! Fields side by side, from the highest to the lowest, each as its width and value -/

def fieldsWidth : List (Nat × Nat) → Nat
  | [] => 0
  | (len, _) :: l => len + fieldsWidth l

/-- The number of the fields. -/
def fieldsNat : List (Nat × Nat) → Nat
  | [] => 0
  | (_, v) :: l => v * 2 ^ fieldsWidth l + fieldsNat l

/-- Every value fits its width. -/
def fieldsFit : List (Nat × Nat) → Prop
  | [] => True
  | (len, v) :: l => v < 2 ^ len ∧ fieldsFit l

/-- The fields are the lowest bits of a word. -/
def holdsFields (w : Word) : List (Nat × Nat) → Prop
  | [] => True
  | (len, v) :: l => w.extractLsb' (fieldsWidth l) len = BitVec.ofNat len v ∧ holdsFields w l

theorem fieldsNat_lt {l : List (Nat × Nat)} (h : fieldsFit l) : fieldsNat l < 2 ^ fieldsWidth l := by
  induction l with
  | nil => exact Nat.one_pos
  | cons f l ih =>
    obtain ⟨hv, hl⟩ := h
    calc f.2 * 2 ^ fieldsWidth l + fieldsNat l < f.2 * 2 ^ fieldsWidth l + 2 ^ fieldsWidth l :=
          Nat.add_lt_add_left (ih hl) _
      _ = (f.2 + 1) * 2 ^ fieldsWidth l := (Nat.succ_mul ..).symm
      _ ≤ 2 ^ f.1 * 2 ^ fieldsWidth l := Nat.mul_le_mul_right _ hv
      _ = 2 ^ (f.1 + fieldsWidth l) := (Nat.pow_add ..).symm

/-- Numbers in base `b` are equal digit by digit. -/
theorem digits_eq_iff {b q v r x : Nat} (hr : r < b) (hx : x < b) : r + b * q = v * b + x ↔ q = v ∧ r = x := by
  constructor
  · intro h
    have hb : 0 < b := Nat.zero_lt_of_lt hr
    have hdiv := congrArg (· / b) h
    have hmod := congrArg (· % b) h
    simp [Nat.mul_comm v, Nat.mul_add_div hb, Nat.add_mul_div_left _ _ hb, Nat.div_eq_of_lt, Nat.mod_eq_of_lt, hr, hx]
      at hdiv hmod
    exact ⟨hdiv, hmod⟩
  · rintro ⟨rfl, rfl⟩
    rw [Nat.mul_comm, Nat.add_comm]

theorem holdsFields_iff_mod {w : Word} {l : List (Nat × Nat)} (h : fieldsFit l) :
    holdsFields w l ↔ w.toNat % 2 ^ fieldsWidth l = fieldsNat l := by
  induction l with
  | nil => simp [holdsFields, fieldsWidth, fieldsNat, Nat.mod_one]
  | cons f l ih =>
    obtain ⟨hv, hl⟩ := h
    have hlow := Nat.mod_lt w.toNat (Nat.two_pow_pos (fieldsWidth l))
    rw [holdsFields, ih hl, field_eq_iff, BitVec.toNat_ofNat, Nat.mod_eq_of_lt hv, fieldsWidth, fieldsNat,
      Nat.add_comm f.1, Nat.pow_add, Nat.mod_mul, digits_eq_iff hlow (fieldsNat_lt hl)]

/-! The condition field -/

/-- The condition of a word, none for `1111` (R171, R172). -/
def condOf (w : Word) : Option Cond := Cond.ofCode (w.extractLsb' 28 4).toNat

theorem condOf_eq_some {w : Word} {c : Cond} : condOf w = some c ↔ w.extractLsb' 28 4 = BitVec.ofNat 4 c.code := by
  have hlt := c.code_lt
  constructor
  · intro h
    rw [Cond.code_of_ofCode h, BitVec.ofNat_toNat, BitVec.setWidth_eq]
  · intro h
    rw [condOf, h, BitVec.toNat_ofNat, Nat.mod_eq_of_lt (by omega), Cond.ofCode_code]

theorem condOf_eq_none {w : Word} : condOf w = none ↔ w.extractLsb' 28 4 = 0b1111#4 := by
  rw [condOf]
  generalize w.extractLsb' 28 4 = b
  revert b
  decide

theorem decode_of_condOf_some {w : Word} {c : Cond} (h : condOf w = some c) : decode w = decodeClass c w := by
  rw [condOf] at h
  rw [decode, h]

theorem decode_of_condOf_none {w : Word} (h : condOf w = none) : decode w = .undefined w := by
  rw [condOf] at h
  rw [decode, h]

/-- The encoder's word of a condition and fields is the word that reads back as these; `l` gives the fields side by
side. -/
theorem wordOf_eq_iff {c : Cond} {fields : List (Nat × Nat)} {w : Word} (l : List (Nat × Nat))
    (hwidth : fieldsWidth l = 28) (hl : fieldsFit l ∧ sumFields fields = fieldsNat l) :
    wordOf c fields = w ↔ condOf w = some c ∧ holdsFields w l := by
  obtain ⟨hfit, hsum⟩ := hl
  have hc := c.code_lt
  have hw := w.isLt
  have hlt := fieldsNat_lt hfit
  have hall := holdsFields_iff_mod (w := w) (l := (4, c.code) :: l) ⟨by omega, hfit⟩
  simp only [holdsFields, fieldsWidth, fieldsNat, hwidth] at hall
  rw [hwidth] at hlt
  rw [condOf_eq_some, hall, ← BitVec.toNat_inj, wordOf, hsum, BitVec.toNat_ofNat]
  omega

/-! Fields of one kind -/

theorem bitField_eq_iff {w : Word} {k : Nat} {b : Bool} :
    w.extractLsb' k 1 = BitVec.ofNat 1 b.toNat ↔ w.getLsbD k = b := by
  rw [field_eq_iff, bit_eq]
  cases b <;> simp

theorem bitField_eq_one {w : Word} {k : Nat} : w.extractLsb' k 1 = 1#1 ↔ w.getLsbD k = true :=
  bitField_eq_iff (b := true)

theorem bitField_eq_zero {w : Word} {k : Nat} : w.extractLsb' k 1 = 0#1 ↔ w.getLsbD k = false :=
  bitField_eq_iff (b := false)

theorem regField_eq_iff {w : Word} {lo : Nat} {r : Reg} :
    w.extractLsb' lo 4 = BitVec.ofNat 4 r.val ↔ regAt w lo = r := by
  rw [← BitVec.toNat_inj, BitVec.toNat_ofNat, Nat.mod_eq_of_lt r.isLt, ← Fin.val_inj, regAt]

theorem vecField_eq_iff {n : Nat} {w : Word} {lo : Nat} {x : BitVec n} :
    w.extractLsb' lo n = BitVec.ofNat n x.toNat ↔ w.extractLsb' lo n = x := by
  rw [BitVec.ofNat_toNat, BitVec.setWidth_eq]

theorem typeField_eq_iff {w : Word} {lo : Nat} {ty : ShiftType} :
    w.extractLsb' lo 2 = BitVec.ofNat 2 ty.code ↔ ShiftType.ofBits (w.extractLsb' lo 2) = ty := by
  generalize w.extractLsb' lo 2 = b
  revert b
  cases ty <;> decide

theorem PsrSel.code_lt (r : PsrSel) : r.code < 2 := by cases r <;> decide

theorem selField_eq_iff {w : Word} {r : PsrSel} : w.extractLsb' 22 1 = BitVec.ofNat 1 r.code ↔ psrSelOf w = r := by
  rw [psrSelOf]
  cases r
  · simp [PsrSel.code, bitField_eq_zero]
  · simp [PsrSel.code, bitField_eq_one]

/-! Operands -/

theorem operand2Of_eq_imm {w : Word} {rot : BitVec 4} {imm8 : Byte} : operand2Of w = .imm rot imm8 ↔
    w.getLsbD 25 = true ∧ w.extractLsb' 8 4 = rot ∧ w.extractLsb' 0 8 = imm8 := by
  unfold operand2Of
  cases w.getLsbD 25 <;> cases w.getLsbD 4 <;> simp

theorem operand2Of_eq_immShift {w : Word} {rm : Reg} {ty : ShiftType} {amount : BitVec 5} :
    operand2Of w = .immShift rm ty amount ↔ w.getLsbD 25 = false ∧ w.getLsbD 4 = false ∧
      regAt w 0 = rm ∧ ShiftType.ofBits (w.extractLsb' 5 2) = ty ∧ w.extractLsb' 7 5 = amount := by
  unfold operand2Of
  cases w.getLsbD 25 <;> cases w.getLsbD 4 <;> simp

theorem operand2Of_eq_regShift {w : Word} {rm : Reg} {ty : ShiftType} {rs : Reg} :
    operand2Of w = .regShift rm ty rs ↔ w.getLsbD 25 = false ∧ w.getLsbD 4 = true ∧
      regAt w 0 = rm ∧ ShiftType.ofBits (w.extractLsb' 5 2) = ty ∧ regAt w 8 = rs := by
  unfold operand2Of
  cases w.getLsbD 25 <;> cases w.getLsbD 4 <;> simp

theorem offsetOf_eq_imm {w : Word} {imm12 : BitVec 12} :
    offsetOf w = .imm imm12 ↔ w.getLsbD 25 = false ∧ w.extractLsb' 0 12 = imm12 := by
  unfold offsetOf
  cases w.getLsbD 25 <;> simp

theorem offsetOf_eq_reg {w : Word} {rm : Reg} {ty : ShiftType} {amount : BitVec 5} :
    offsetOf w = .reg rm ty amount ↔ w.getLsbD 25 = true ∧
      regAt w 0 = rm ∧ ShiftType.ofBits (w.extractLsb' 5 2) = ty ∧ w.extractLsb' 7 5 = amount := by
  unfold offsetOf
  cases w.getLsbD 25 <;> simp

theorem halfOffsetOf_eq_imm {w : Word} {imm8 : Byte} : halfOffsetOf w = .imm imm8 ↔ w.getLsbD 22 = true ∧
    w.extractLsb' 8 4 = BitVec.ofNat 4 (imm8.toNat / 16) ∧ w.extractLsb' 0 4 = BitVec.ofNat 4 (imm8.toNat % 16) := by
  have himm := imm8.isLt
  unfold halfOffsetOf
  cases w.getLsbD 22
  · simp
  · simp only [if_true, HalfOffset.imm.injEq, ← BitVec.toNat_inj, BitVec.toNat_ofNat, true_and]
    omega

theorem halfOffsetOf_eq_reg {w : Word} {sbz : BitVec 4} {rm : Reg} : halfOffsetOf w = .reg sbz rm ↔
    w.getLsbD 22 = false ∧ w.extractLsb' 8 4 = sbz ∧ regAt w 0 = rm := by
  unfold halfOffsetOf
  cases w.getLsbD 22 <;> simp

/-! The same operands as fields: their form, a bit of its own, and the lowest bits of the word -/

theorem sumFields_append (a b : List (Nat × Nat)) : sumFields (a ++ b) = sumFields a + sumFields b := by
  induction a with
  | nil => rw [List.nil_append, sumFields, Nat.zero_add]
  | cons f a ih => rw [List.cons_append, sumFields, sumFields, ih, Nat.add_assoc]

/-- Bit 25 of a data-processing word (R178). -/
def Operand2.form : Operand2 → Bool
  | .imm _ _ => true
  | .immShift _ _ _ => false
  | .regShift _ _ _ => false

/-- The twelve lowest bits of a data-processing word (R178). -/
def Operand2.low : Operand2 → List (Nat × Nat)
  | .imm rot imm8 => [(4, rot.toNat), (8, imm8.toNat)]
  | .immShift rm ty amount => [(5, amount.toNat), (2, ty.code), (1, 0), (4, rm)]
  | .regShift rm ty rs => [(4, rs), (1, 0), (2, ty.code), (1, 1), (4, rm)]

theorem Operand2.low_width (op : Operand2) : fieldsWidth op.low = 12 := by cases op <;> rfl

theorem Operand2.low_fit (op : Operand2) : fieldsFit op.low := by
  cases op with
  | imm rot imm8 => exact ⟨rot.isLt, imm8.isLt, trivial⟩
  | immShift rm ty amount => exact ⟨amount.isLt, ty.code_lt, Nat.zero_lt_two, rm.isLt, trivial⟩
  | regShift rm ty rs => exact ⟨rs.isLt, Nat.zero_lt_two, ty.code_lt, Nat.one_lt_two, rm.isLt, trivial⟩

theorem Operand2.sumFields_fields (op : Operand2) :
    sumFields op.fields = op.form.toNat * 2 ^ 25 + fieldsNat op.low := by
  cases op <;> simp [fields, form, low, sumFields, fieldsNat, fieldsWidth]

/-- The second conjunct on the right is an exclusion of class 4 (R173). -/
theorem Operand2.low_iff {op : Operand2} {w : Word} : w.getLsbD 25 = op.form ∧ holdsFields w op.low ↔
    operand2Of w = op ∧ (w.getLsbD 25 = false → w.getLsbD 7 = true → w.getLsbD 4 = false) := by
  cases op with
  | imm rot imm8 =>
    simp only [form, low, holdsFields, fieldsWidth, vecField_eq_iff, operand2Of_eq_imm]
    cases w.getLsbD 25 <;> simp
  | immShift rm ty amount =>
    simp only [form, low, holdsFields, fieldsWidth, vecField_eq_iff, typeField_eq_iff, bitField_eq_zero,
      regField_eq_iff, operand2Of_eq_immShift, Nat.reduceAdd]
    cases w.getLsbD 25 <;> cases w.getLsbD 4 <;> simp [and_comm, and_left_comm]
  | regShift rm ty rs =>
    simp only [form, low, holdsFields, fieldsWidth, typeField_eq_iff, bitField_eq_zero, bitField_eq_one,
      regField_eq_iff, operand2Of_eq_regShift, Nat.reduceAdd]
    cases w.getLsbD 25 <;> cases w.getLsbD 7 <;> cases w.getLsbD 4 <;> simp [and_comm, and_left_comm]

/-- Bit 25 of a single-word transfer (R179). -/
def Offset.form : Offset → Bool
  | .imm _ => false
  | .reg _ _ _ => true

/-- The twelve lowest bits of a single-word transfer (R179). -/
def Offset.low : Offset → List (Nat × Nat)
  | .imm imm12 => [(12, imm12.toNat)]
  | .reg rm ty amount => [(5, amount.toNat), (2, ty.code), (1, 0), (4, rm)]

theorem Offset.low_width (off : Offset) : fieldsWidth off.low = 12 := by cases off <;> rfl

theorem Offset.low_fit (off : Offset) : fieldsFit off.low := by
  cases off with
  | imm imm12 => exact ⟨imm12.isLt, trivial⟩
  | reg rm ty amount => exact ⟨amount.isLt, ty.code_lt, Nat.zero_lt_two, rm.isLt, trivial⟩

theorem Offset.sumFields_fields (off : Offset) :
    sumFields off.fields = off.form.toNat * 2 ^ 25 + fieldsNat off.low := by
  cases off <;> simp [fields, form, low, sumFields, fieldsNat, fieldsWidth]

/-- The second conjunct on the right is the exclusion of class 5 (R173). -/
theorem Offset.low_iff {off : Offset} {w : Word} : w.getLsbD 25 = off.form ∧ holdsFields w off.low ↔
    offsetOf w = off ∧ (w.getLsbD 25 = true → w.getLsbD 4 = false) := by
  cases off with
  | imm imm12 =>
    simp only [form, low, holdsFields, fieldsWidth, vecField_eq_iff, offsetOf_eq_imm]
    cases w.getLsbD 25 <;> simp
  | reg rm ty amount =>
    simp only [form, low, holdsFields, fieldsWidth, vecField_eq_iff, typeField_eq_iff, bitField_eq_zero,
      regField_eq_iff, offsetOf_eq_reg, Nat.reduceAdd]
    cases w.getLsbD 25 <;> cases w.getLsbD 4 <;> simp [and_comm, and_left_comm]

/-- Bit 22 of a half-word transfer (R180). -/
def HalfOffset.form : HalfOffset → Bool
  | .imm _ => true
  | .reg _ _ => false

/-- Bits 11 to 8 of a half-word transfer (R180). -/
def HalfOffset.high : HalfOffset → Nat
  | .imm imm8 => imm8.toNat / 16
  | .reg sbz _ => sbz.toNat

/-- Bits 3 to 0 of a half-word transfer (R180). -/
def HalfOffset.low : HalfOffset → Nat
  | .imm imm8 => imm8.toNat % 16
  | .reg _ rm => rm

theorem HalfOffset.high_lt (off : HalfOffset) : off.high < 16 := by
  cases off with
  | imm imm8 => exact Nat.div_lt_of_lt_mul imm8.isLt
  | reg sbz rm => exact sbz.isLt

theorem HalfOffset.low_lt (off : HalfOffset) : off.low < 16 := by
  cases off with
  | imm imm8 => exact Nat.mod_lt _ (by decide)
  | reg sbz rm => exact rm.isLt

theorem HalfOffset.sumFields_fields (off : HalfOffset) :
    sumFields off.fields = off.form.toNat * 2 ^ 22 + off.high * 2 ^ 8 + off.low := by
  cases off <;> simp [fields, form, high, low, sumFields, Nat.add_assoc]

theorem HalfOffset.form_iff {off : HalfOffset} {w : Word} : halfOffsetOf w = off ↔ w.getLsbD 22 = off.form ∧
    w.extractLsb' 8 4 = BitVec.ofNat 4 off.high ∧ w.extractLsb' 0 4 = BitVec.ofNat 4 off.low := by
  cases off with
  | imm imm8 => rw [halfOffsetOf_eq_imm, form, high, low]
  | reg sbz rm => rw [halfOffsetOf_eq_reg, form, high, low, vecField_eq_iff, regField_eq_iff]

/-- Bit 24 of a single-word transfer (R179). -/
def Indexing.before : Indexing → Bool
  | .offset => true
  | .pre => true
  | .post => false

/-- Bit 21 of a single-word transfer that is no User-mode form (R179). -/
def Indexing.writesBack : Indexing → Bool
  | .offset => false
  | .pre => true
  | .post => false

theorem Indexing.sumFields_fields (ix : Indexing) :
    sumFields ix.fields = ix.before.toNat * 2 ^ 24 + ix.writesBack.toNat * 2 ^ 21 := by
  cases ix <;> simp [fields, before, writesBack, sumFields]

/-- The second conjunct on the right tells the word from a User-mode form (R179). -/
theorem Indexing.before_iff {ix : Indexing} {w : Word} :
    w.getLsbD 24 = ix.before ∧ w.getLsbD 21 = ix.writesBack ↔
      indexingOf w = ix ∧ (!w.getLsbD 24 && w.getLsbD 21) = false := by
  unfold indexingOf
  cases w.getLsbD 24 <;> cases w.getLsbD 21 <;> cases ix <;> decide

/-! The classes with exclusions -/

/-- Class 4 with its exclusions (R173). -/
theorem isDataProcessing_iff {w : Word} : isDataProcessing w = true ↔ w.extractLsb' 26 2 = 0b00#2 ∧
    (w.getLsbD 25 = false → w.getLsbD 7 = true → w.getLsbD 4 = false) ∧
    (w.extractLsb' 23 2 = 0b10#2 → w.getLsbD 20 = true) := by
  unfold isDataProcessing
  cases w.getLsbD 25 <;> cases w.getLsbD 7 <;> cases w.getLsbD 4 <;> cases w.getLsbD 20 <;> simp

/-- The opcodes of the compares are `10xx` (R178). -/
theorem compareField_iff {w : Word} :
    w.extractLsb' 23 2 = 0b10#2 ↔ (w.extractLsb' 21 4).toNat / 4 = 2 := by
  rw [field_eq_iff, field_toNat, BitVec.toNat_ofNat]
  omega

/-- Class 5 with its exclusion (R173). -/
theorem isSingleTransfer_iff {w : Word} : isSingleTransfer w = true ↔ w.extractLsb' 26 2 = 0b01#2 ∧
    (w.getLsbD 25 = true → w.getLsbD 4 = false) := by
  unfold isSingleTransfer
  cases w.getLsbD 25 <;> cases w.getLsbD 4 <;> simp

end Sys2Proof
end
section
/-! SUPPORT. The encoder's word of each class is the word of the class that holds its fields (30_encoding.md R175 to
R187). -/

namespace Sys2Proof

section
variable {c : Cond} {w : Word}

theorem encode_b_eq_iff {imm24 : BitVec 24} :
    encode (.b c imm24) = w ↔ condOf w = some c ∧ isBranch w = true ∧
      w.getLsbD 24 = false ∧ w.extractLsb' 0 24 = imm24 := by
  rw [encode, wordOf_eq_iff [(3, 0b101), (1, 0), (24, imm24.toNat)] rfl
    (by simp only [fieldsFit, sumFields, fieldsNat, fieldsWidth, and_true]; omega)]
  simp only [holdsFields, fieldsWidth, isBranch, bitField_eq_zero, vecField_eq_iff, Nat.reduceAdd, beq_iff_eq, and_true]

theorem encode_bl_eq_iff {imm24 : BitVec 24} :
    encode (.bl c imm24) = w ↔ condOf w = some c ∧ isBranch w = true ∧
      w.getLsbD 24 = true ∧ w.extractLsb' 0 24 = imm24 := by
  rw [encode, wordOf_eq_iff [(3, 0b101), (1, 1), (24, imm24.toNat)] rfl
    (by simp only [fieldsFit, sumFields, fieldsNat, fieldsWidth, and_true]; omega)]
  simp only [holdsFields, fieldsWidth, isBranch, bitField_eq_one, vecField_eq_iff, Nat.reduceAdd, beq_iff_eq, and_true]

theorem encode_swi_eq_iff {comment : BitVec 24} :
    encode (.swi c comment) = w ↔ condOf w = some c ∧ isSwi w = true ∧
      w.extractLsb' 0 24 = comment := by
  rw [encode, wordOf_eq_iff [(4, 0b1111), (24, comment.toNat)] rfl
    (by simp only [fieldsFit, sumFields, fieldsNat, fieldsWidth, and_true]; omega)]
  simp only [holdsFields, fieldsWidth, isSwi, vecField_eq_iff, Nat.reduceAdd, beq_iff_eq, and_true]

theorem encodeMul_eq_iff {op3 : Nat} {s : Bool} {hi lo : Nat} {rs rm : Reg} (hop : op3 < 8) (hhi : hi < 16)
    (hlo : lo < 16) :
    encodeMul c op3 s hi lo rs rm = w ↔ condOf w = some c ∧ isMultiply w = true ∧
      w.extractLsb' 21 3 = BitVec.ofNat 3 op3 ∧ w.getLsbD 20 = s ∧ w.extractLsb' 16 4 = BitVec.ofNat 4 hi ∧
      w.extractLsb' 12 4 = BitVec.ofNat 4 lo ∧ regAt w 8 = rs ∧ regAt w 0 = rm := by
  have hs := s.toNat_lt
  rw [encodeMul, wordOf_eq_iff [(4, 0), (3, op3), (1, s.toNat), (4, hi), (4, lo), (4, rs), (4, 0b1001), (4, rm)] rfl
    (by simp only [fieldsFit, sumFields, fieldsNat, fieldsWidth, and_true]; omega)]
  simp only [holdsFields, fieldsWidth, isMultiply, regField_eq_iff, bitField_eq_iff, Nat.reduceAdd, Bool.and_eq_true,
    beq_iff_eq, and_true]
  simp only [and_assoc, and_left_comm, and_comm]

theorem encodeBlock_eq_iff {pu load : Nat} {s wb : Bool} {rn : Reg} {list : BitVec 16} (hpu : pu < 4)
    (hload : load < 2) :
    encodeBlock c pu s wb load rn list = w ↔ condOf w = some c ∧ isBlockTransfer w = true ∧
      w.extractLsb' 23 2 = BitVec.ofNat 2 pu ∧ w.getLsbD 22 = s ∧ w.getLsbD 21 = wb ∧
      w.extractLsb' 20 1 = BitVec.ofNat 1 load ∧ regAt w 16 = rn ∧ w.extractLsb' 0 16 = list := by
  have hs := s.toNat_lt
  have hwb := wb.toNat_lt
  rw [encodeBlock, wordOf_eq_iff [(3, 0b100), (2, pu), (1, s.toNat), (1, wb.toNat), (1, load), (4, rn),
      (16, list.toNat)] rfl
    (by simp only [fieldsFit, sumFields, fieldsNat, fieldsWidth, and_true]; omega)]
  simp only [holdsFields, fieldsWidth, isBlockTransfer, regField_eq_iff, bitField_eq_iff, vecField_eq_iff,
    Nat.reduceAdd, beq_iff_eq, and_true]

theorem encodeSwap_eq_iff {byte : Nat} {rn rd rm : Reg} (hbyte : byte < 2) :
    encodeSwap c byte rn rd rm = w ↔ condOf w = some c ∧ isSwap w = true ∧
      w.extractLsb' 22 1 = BitVec.ofNat 1 byte ∧ regAt w 16 = rn ∧ regAt w 12 = rd ∧ regAt w 0 = rm := by
  rw [encodeSwap, wordOf_eq_iff [(5, 0b00010), (1, byte), (2, 0), (4, rn), (4, rd), (8, 0b1001), (4, rm)] rfl
    (by simp only [fieldsFit, sumFields, fieldsNat, fieldsWidth, and_true]; omega)]
  simp only [holdsFields, fieldsWidth, isSwap, regField_eq_iff, Nat.reduceAdd, Bool.and_eq_true, beq_iff_eq, and_true]
  simp only [and_assoc, and_left_comm, and_comm]

theorem encodeMrs_eq_iff {r : Nat} {rd : Reg} (hr : r < 2) :
    encodeMrs c r rd = w ↔ condOf w = some c ∧ isMrs w = true ∧
      w.extractLsb' 22 1 = BitVec.ofNat 1 r ∧ regAt w 12 = rd := by
  rw [encodeMrs, wordOf_eq_iff [(5, 0b00010), (1, r), (6, 0b001111), (4, rd), (12, 0)] rfl
    (by simp only [fieldsFit, sumFields, fieldsNat, fieldsWidth, and_true]; omega)]
  simp only [holdsFields, fieldsWidth, isMrs, regField_eq_iff, Nat.reduceAdd, Bool.and_eq_true, beq_iff_eq, and_true]
  simp only [and_assoc, and_left_comm, and_comm]

theorem encode_msrReg_eq_iff {r : PsrSel} {mask : BitVec 4} {rm : Reg} :
    encode (.msrReg c r mask rm) = w ↔ condOf w = some c ∧ isMsrReg w = true ∧
      psrSelOf w = r ∧ w.extractLsb' 16 4 = mask ∧ regAt w 0 = rm := by
  have hr := r.code_lt
  rw [encode, wordOf_eq_iff [(5, 0b00010), (1, r.code), (2, 0b10), (4, mask.toNat), (12, 0xF00), (4, rm)] rfl
    (by simp only [fieldsFit, sumFields, fieldsNat, fieldsWidth, and_true]; omega)]
  simp only [holdsFields, fieldsWidth, isMsrReg, regField_eq_iff, vecField_eq_iff, selField_eq_iff, Nat.reduceAdd,
    Bool.and_eq_true, beq_iff_eq, and_true]
  simp only [and_assoc, and_left_comm, and_comm]

theorem encode_msrImm_eq_iff {r : PsrSel} {mask rot : BitVec 4} {imm8 : Byte} :
    encode (.msrImm c r mask rot imm8) = w ↔ condOf w = some c ∧ isMsrImm w = true ∧
      psrSelOf w = r ∧ w.extractLsb' 16 4 = mask ∧ w.extractLsb' 8 4 = rot ∧ w.extractLsb' 0 8 = imm8 := by
  have hr := r.code_lt
  rw [encode, wordOf_eq_iff [(5, 0b00110), (1, r.code), (2, 0b10), (4, mask.toNat), (4, 0b1111), (4, rot.toNat),
      (8, imm8.toNat)] rfl
    (by simp only [fieldsFit, sumFields, fieldsNat, fieldsWidth, and_true]; omega)]
  simp only [holdsFields, fieldsWidth, isMsrImm, vecField_eq_iff, selField_eq_iff, Nat.reduceAdd, Bool.and_eq_true,
    beq_iff_eq, and_true]
  simp only [and_assoc, and_left_comm, and_comm]

theorem encode_cdp_eq_iff {op1 crn crd : BitVec 4} {cp : Fin 16} {op2 : BitVec 3} {crm : BitVec 4} :
    encode (.cdp c op1 crn crd cp op2 crm) = w ↔ condOf w = some c ∧ isCpOperation w = true ∧
      w.extractLsb' 20 4 = op1 ∧ w.extractLsb' 16 4 = crn ∧ w.extractLsb' 12 4 = crd ∧ cpAt w = cp ∧
      w.extractLsb' 5 3 = op2 ∧ w.extractLsb' 0 4 = crm := by
  rw [encode, wordOf_eq_iff [(4, 0b1110), (4, op1.toNat), (4, crn.toNat), (4, crd.toNat), (4, cp), (3, op2.toNat),
      (1, 0), (4, crm.toNat)] rfl
    (by simp only [fieldsFit, sumFields, fieldsNat, fieldsWidth, and_true]; omega)]
  simp only [holdsFields, fieldsWidth, isCpOperation, regField_eq_iff, vecField_eq_iff, bitField_eq_zero, cpAt,
    Bool.not_eq_true', Nat.reduceAdd, Bool.and_eq_true, beq_iff_eq, and_true]
  simp only [and_assoc, and_left_comm, and_comm]

theorem encodeCpTransfer_eq_iff {p u n wb : Bool} {load : Nat} {rn : Reg} {crd : BitVec 4} {cp : Fin 16} {imm8 : Byte}
    (hload : load < 2) :
    encodeCpTransfer c p u n wb load rn crd cp imm8 = w ↔ condOf w = some c ∧ isCpTransfer w = true ∧
      w.getLsbD 24 = p ∧ w.getLsbD 23 = u ∧ w.getLsbD 22 = n ∧ w.getLsbD 21 = wb ∧
      w.extractLsb' 20 1 = BitVec.ofNat 1 load ∧ regAt w 16 = rn ∧ w.extractLsb' 12 4 = crd ∧ cpAt w = cp ∧
      w.extractLsb' 0 8 = imm8 := by
  have hp := p.toNat_lt
  have hu := u.toNat_lt
  have hn := n.toNat_lt
  have hwb := wb.toNat_lt
  rw [encodeCpTransfer, wordOf_eq_iff [(3, 0b110), (1, p.toNat), (1, u.toNat), (1, n.toNat), (1, wb.toNat), (1, load),
      (4, rn), (4, crd.toNat), (4, cp), (8, imm8.toNat)] rfl
    (by simp only [fieldsFit, sumFields, fieldsNat, fieldsWidth, and_true]; omega)]
  simp only [holdsFields, fieldsWidth, isCpTransfer, regField_eq_iff, vecField_eq_iff, bitField_eq_iff, cpAt,
    Nat.reduceAdd, beq_iff_eq, and_true]

theorem encodeCpRegister_eq_iff {load : Nat} {op1 op2 : BitVec 3} {crn : BitVec 4} {rd : Reg} {cp : Fin 16}
    {crm : BitVec 4} (hload : load < 2) :
    encodeCpRegister c load op1 crn rd cp op2 crm = w ↔ condOf w = some c ∧ isCpRegister w = true ∧
      w.extractLsb' 20 1 = BitVec.ofNat 1 load ∧ w.extractLsb' 21 3 = op1 ∧ w.extractLsb' 16 4 = crn ∧
      regAt w 12 = rd ∧ cpAt w = cp ∧ w.extractLsb' 5 3 = op2 ∧ w.extractLsb' 0 4 = crm := by
  rw [encodeCpRegister, wordOf_eq_iff [(4, 0b1110), (3, op1.toNat), (1, load), (4, crn.toNat), (4, rd), (4, cp),
      (3, op2.toNat), (1, 1), (4, crm.toNat)] rfl
    (by simp only [fieldsFit, sumFields, fieldsNat, fieldsWidth, and_true]; omega)]
  simp only [holdsFields, fieldsWidth, isCpRegister, regField_eq_iff, vecField_eq_iff, bitField_eq_one, cpAt,
    Nat.reduceAdd, Bool.and_eq_true, beq_iff_eq, and_true]
  simp only [and_assoc, and_left_comm, and_comm]

/-- The S bit of a compare is set: an exclusion of class 4 (R173). -/
theorem encodeDp_eq_iff {opcode rn rd : Nat} {s : Bool} {op : Operand2} (hop : opcode < 16) (hrn : rn < 16)
    (hrd : rd < 16) (hcmp : opcode / 4 = 2 → s = true) : encodeDp c opcode s rn rd op = w ↔
      condOf w = some c ∧ isDataProcessing w = true ∧ w.extractLsb' 21 4 = BitVec.ofNat 4 opcode ∧ w.getLsbD 20 = s ∧
      w.extractLsb' 16 4 = BitVec.ofNat 4 rn ∧ w.extractLsb' 12 4 = BitVec.ofNat 4 rd ∧ operand2Of w = op := by
  have hs := s.toNat_lt
  have hform := op.form.toNat_lt
  have hfields := op.sumFields_fields
  rw [encodeDp, wordOf_eq_iff ((2, 0b00) :: (1, op.form.toNat) :: (4, opcode) :: (1, s.toNat) :: (4, rn) ::
      (4, rd) :: op.low)
    (by simp only [fieldsWidth, op.low_width])
    (by simp only [fieldsFit, op.low_fit, sumFields_append, sumFields, fieldsNat, fieldsWidth, op.low_width, and_true]
        omega),
    isDataProcessing_iff, compareField_iff]
  simp only [holdsFields, fieldsWidth, op.low_width, bitField_eq_iff, Nat.reduceAdd]
  constructor
  · rintro ⟨hc, htop, hform, hopf, hsf, hrnf, hrdf, hlow⟩
    obtain ⟨hop2, hshift⟩ := op.low_iff.mp ⟨hform, hlow⟩
    have hS : (w.extractLsb' 21 4).toNat / 4 = 2 → w.getLsbD 20 = true := by
      rw [hopf, hsf, BitVec.toNat_ofNat, Nat.mod_eq_of_lt hop]
      exact hcmp
    exact ⟨hc, ⟨htop, hshift, hS⟩, hopf, hsf, hrnf, hrdf, hop2⟩
  · rintro ⟨hc, ⟨htop, hshift, -⟩, hopf, hsf, hrnf, hrdf, hop2⟩
    obtain ⟨hform, hlow⟩ := op.low_iff.mpr ⟨hop2, hshift⟩
    exact ⟨hc, htop, hform, hopf, hsf, hrnf, hrdf, hlow⟩

/-- `p` and `wb` are the bits of the indexing (R179). -/
theorem encodeSingle_eq_iff {ix : List (Nat × Nat)} {p wb u : Bool} {byte load : Nat} {rn rd : Reg} {off : Offset}
    (hix : sumFields ix = p.toNat * 2 ^ 24 + wb.toNat * 2 ^ 21) (hbyte : byte < 2) (hload : load < 2) :
    encodeSingle c ix u byte load rn rd off = w ↔ condOf w = some c ∧ isSingleTransfer w = true ∧
      (w.getLsbD 24 = p ∧ w.getLsbD 21 = wb) ∧ w.getLsbD 23 = u ∧ w.extractLsb' 22 1 = BitVec.ofNat 1 byte ∧
      w.extractLsb' 20 1 = BitVec.ofNat 1 load ∧ regAt w 16 = rn ∧ regAt w 12 = rd ∧ offsetOf w = off := by
  have hp := p.toNat_lt
  have hwb := wb.toNat_lt
  have hu := u.toNat_lt
  have hform := off.form.toNat_lt
  have hfields := off.sumFields_fields
  rw [encodeSingle, wordOf_eq_iff ((2, 0b01) :: (1, off.form.toNat) :: (1, p.toNat) :: (1, u.toNat) :: (1, byte) ::
      (1, wb.toNat) :: (1, load) :: (4, rn.val) :: (4, rd.val) :: off.low)
    (by simp only [fieldsWidth, off.low_width])
    (by simp only [fieldsFit, off.low_fit, sumFields_append, sumFields, fieldsNat, fieldsWidth, off.low_width, and_true]
        omega),
    isSingleTransfer_iff]
  simp only [holdsFields, fieldsWidth, off.low_width, bitField_eq_iff, regField_eq_iff, Nat.reduceAdd]
  constructor
  · rintro ⟨hc, htop, hform, hpf, huf, hbf, hwf, hlf, hrnf, hrdf, hlow⟩
    obtain ⟨hoff, hreg⟩ := off.low_iff.mp ⟨hform, hlow⟩
    exact ⟨hc, ⟨htop, hreg⟩, ⟨hpf, hwf⟩, huf, hbf, hlf, hrnf, hrdf, hoff⟩
  · rintro ⟨hc, ⟨htop, hreg⟩, ⟨hpf, hwf⟩, huf, hbf, hlf, hrnf, hrdf, hoff⟩
    obtain ⟨hform, hlow⟩ := off.low_iff.mpr ⟨hoff, hreg⟩
    exact ⟨hc, htop, hform, hpf, huf, hbf, hwf, hlf, hrnf, hrdf, hlow⟩

theorem encodeSingle_indexed_eq_iff {ix : Indexing} {u : Bool} {byte load : Nat} {rn rd : Reg} {off : Offset}
    (hbyte : byte < 2) (hload : load < 2) : encodeSingle c ix.fields u byte load rn rd off = w ↔
      condOf w = some c ∧ isSingleTransfer w = true ∧ (indexingOf w = ix ∧ (!w.getLsbD 24 && w.getLsbD 21) = false) ∧
      w.getLsbD 23 = u ∧ w.extractLsb' 22 1 = BitVec.ofNat 1 byte ∧ w.extractLsb' 20 1 = BitVec.ofNat 1 load ∧
      regAt w 16 = rn ∧ regAt w 12 = rd ∧ offsetOf w = off := by
  rw [encodeSingle_eq_iff ix.sumFields_fields hbyte hload, Indexing.before_iff]

theorem encodeSingle_user_eq_iff {u : Bool} {byte load : Nat} {rn rd : Reg} {off : Offset}
    (hbyte : byte < 2) (hload : load < 2) : encodeSingle c [(21, 1)] u byte load rn rd off = w ↔
      condOf w = some c ∧ isSingleTransfer w = true ∧ (!w.getLsbD 24 && w.getLsbD 21) = true ∧
      w.getLsbD 23 = u ∧ w.extractLsb' 22 1 = BitVec.ofNat 1 byte ∧ w.extractLsb' 20 1 = BitVec.ofNat 1 load ∧
      regAt w 16 = rn ∧ regAt w 12 = rd ∧ offsetOf w = off := by
  rw [encodeSingle_eq_iff (p := false) (wb := true) rfl hbyte hload, Bool.and_eq_true, Bool.not_eq_true']

/-- `sh` holds bits 6 and 5, `S` and `H`, not both zero (R180). -/
theorem encodeHalf_eq_iff {p u wb : Bool} {load sh : Nat} {rn rd : Reg} {off : HalfOffset} (hload : load < 2)
    (hsh : 0 < sh ∧ sh < 4) : encodeHalf c p u wb load sh rn rd off = w ↔
      condOf w = some c ∧ isHalfTransfer w = true ∧ w.getLsbD 24 = p ∧ w.getLsbD 23 = u ∧ w.getLsbD 21 = wb ∧
      w.extractLsb' 20 1 = BitVec.ofNat 1 load ∧ w.extractLsb' 5 2 = BitVec.ofNat 2 sh ∧ regAt w 16 = rn ∧
      regAt w 12 = rd ∧ halfOffsetOf w = off := by
  have hp := p.toNat_lt
  have hwb := wb.toNat_lt
  have hu := u.toNat_lt
  have hform := off.form.toNat_lt
  have hhigh := off.high_lt
  have hlow := off.low_lt
  have hfields := off.sumFields_fields
  have hne : BitVec.ofNat 2 sh ≠ 0b00#2 := by
    rw [ne_eq, ← BitVec.toNat_inj, BitVec.toNat_ofNat]
    simp only [BitVec.toNat_ofNat]
    omega
  rw [encodeHalf, wordOf_eq_iff [(3, 0), (1, p.toNat), (1, u.toNat), (1, off.form.toNat), (1, wb.toNat), (1, load),
      (4, rn.val), (4, rd.val), (4, off.high), (1, 1), (2, sh), (1, 1), (4, off.low)] rfl
    (by simp only [fieldsFit, sumFields_append, sumFields, fieldsNat, fieldsWidth, and_true]; omega),
    HalfOffset.form_iff]
  simp only [holdsFields, fieldsWidth, isHalfTransfer, bitField_eq_iff, bitField_eq_one, regField_eq_iff, Nat.reduceAdd,
    Bool.and_eq_true, beq_iff_eq, bne_iff_ne, and_true]
  constructor
  · rintro ⟨hc, htop, hpf, huf, hformf, hwf, hlf, hrnf, hrdf, hhighf, h7, hshf, h4, hlowf⟩
    exact ⟨hc, ⟨⟨⟨htop, h7⟩, h4⟩, hshf ▸ hne⟩, hpf, huf, hwf, hlf, hshf, hrnf, hrdf, hformf, hhighf, hlowf⟩
  · rintro ⟨hc, ⟨⟨⟨htop, h7⟩, h4⟩, -⟩, hpf, huf, hwf, hlf, hshf, hrnf, hrdf, hformf, hhighf, hlowf⟩
    exact ⟨hc, htop, hpf, huf, hformf, hwf, hlf, hrnf, hrdf, hhighf, h7, hshf, h4, hlowf⟩
end

end Sys2Proof
end

section
/-! SUPPORT. The classes of R173: no word is of two of them, so that their order does not matter, and the decoder reads
a word as the one class it belongs to says. -/

namespace Sys2Proof

/-- The classes of R173; class 10 has two forms. -/
inductive InstrClass where
  | branch | swi | multiply | dataProcessing | singleTransfer | halfTransfer | blockTransfer | swap | mrs | msrReg
  | msrImm | cpOperation | cpTransfer | cpRegister

namespace InstrClass

/-- The matcher of a class (R173). -/
def accepts (w : Word) : InstrClass → Bool
  | branch => isBranch w
  | swi => isSwi w
  | multiply => isMultiply w
  | dataProcessing => isDataProcessing w
  | singleTransfer => isSingleTransfer w
  | halfTransfer => isHalfTransfer w
  | blockTransfer => isBlockTransfer w
  | swap => isSwap w
  | mrs => isMrs w
  | msrReg => isMsrReg w
  | msrImm => isMsrImm w
  | cpOperation => isCpOperation w
  | cpTransfer => isCpTransfer w
  | cpRegister => isCpRegister w

/-- What the decoder makes of a word of a class. -/
def read (c : Cond) (w : Word) : InstrClass → Instr
  | branch => decodeBranch c w
  | swi => .swi c (w.extractLsb' 0 24)
  | multiply => decodeMultiply c w
  | dataProcessing => decodeDataProcessing c w
  | singleTransfer => decodeSingleTransfer c w
  | halfTransfer => decodeHalfTransfer c w
  | blockTransfer => decodeBlockTransfer c w
  | swap => decodeSwap c w
  | mrs => decodeMrs c w
  | msrReg => .msrReg c (psrSelOf w) (w.extractLsb' 16 4) (regAt w 0)
  | msrImm => .msrImm c (psrSelOf w) (w.extractLsb' 16 4) (w.extractLsb' 8 4) (w.extractLsb' 0 8)
  | cpOperation => .cdp c (w.extractLsb' 20 4) (w.extractLsb' 16 4) (w.extractLsb' 12 4) (cpAt w) (w.extractLsb' 5 3)
      (w.extractLsb' 0 4)
  | cpTransfer => decodeCpTransfer c w
  | cpRegister => decodeCpRegister c w

/-- The classes in the order of R173. -/
def all : List InstrClass :=
  [branch, swi, multiply, dataProcessing, singleTransfer, halfTransfer, blockTransfer, swap, mrs, msrReg, msrImm,
    cpOperation, cpTransfer, cpRegister]

theorem mem_all (k : InstrClass) : k ∈ all := by cases k <;> simp [all]

/-- The class a word can be of, from the bits that tell the classes apart. -/
def ofWord (w : Word) : InstrClass :=
  if w.getLsbD 27 then
    if w.getLsbD 26 then
      if w.getLsbD 25 then
        if w.getLsbD 24 then swi else if w.getLsbD 4 then cpRegister else cpOperation
      else cpTransfer
    else if w.getLsbD 25 then branch else blockTransfer
  else if w.getLsbD 26 then singleTransfer
  else if !w.getLsbD 25 && w.getLsbD 7 && w.getLsbD 4 then
    if w.getLsbD 6 || w.getLsbD 5 then halfTransfer else if w.getLsbD 24 then swap else multiply
  else if w.getLsbD 24 && !w.getLsbD 23 && !w.getLsbD 20 then
    if w.getLsbD 25 then msrImm else if w.getLsbD 21 then msrReg else mrs
  else dataProcessing

/-- A field compared with a constant, bit by bit. -/
theorem field_succ_eq_iff {w : Word} {lo n : Nat} {b : BitVec (n + 1)} : w.extractLsb' lo (n + 1) = b ↔
    w.getLsbD (lo + n) = b.getLsbD n ∧ w.extractLsb' lo n = b.setWidth n := by
  constructor
  · rintro rfl
    refine ⟨by simp, ?_⟩
    ext k hk
    simp [Nat.lt_succ_of_lt hk]
  · rintro ⟨htop, hlow⟩
    apply BitVec.eq_of_getLsbD_eq
    intro k hk
    obtain hk | rfl : k < n ∨ k = n := by omega
    · have hbit := congrArg (·.getLsbD k) hlow
      simpa [hk, Nat.lt_succ_of_lt hk] using hbit
    · simpa using htop

/-- No word is of two classes: the class is read from its bits. -/
theorem eq_ofWord {w : Word} {k : InstrClass} (h : accepts w k = true) : k = ofWord w := by
  cases k
  all_goals
    simp [accepts, isBranch, isSwi, isMultiply, isDataProcessing, isSingleTransfer, isHalfTransfer, isBlockTransfer,
      isSwap, isMrs, isMsrReg, isMsrImm, isCpOperation, isCpTransfer, isCpRegister, field_succ_eq_iff,
      BitVec.of_length_zero, -BitVec.getLsbD_eq_getElem] at h
    grind [ofWord]

theorem elim_find_cons {α : Type} (k : InstrClass) (l : List InstrClass) (p : InstrClass → Bool) (d : α)
    (f : InstrClass → α) :
    ((k :: l).find? p).elim d f = if p k = true then f k else (l.find? p).elim d f := by
  rw [List.find?_cons]
  cases p k <;> rfl

/-- The decoder tries the classes in order; a word of no class is undefined (R173, R196). -/
theorem decodeClass_eq (c : Cond) (w : Word) :
    decodeClass c w = (all.find? (accepts w)).elim (.undefined w) (read c w) := by
  simp only [all, elim_find_cons, List.find?_nil, Option.elim_none]
  rfl

theorem find_of_accepts {w : Word} {k : InstrClass} (h : accepts w k = true) : all.find? (accepts w) = some k := by
  cases hf : all.find? (accepts w) with
  | none => exact absurd h (List.find?_eq_none.mp hf k (mem_all k))
  | some k' => rw [eq_ofWord h, eq_ofWord (List.find?_some hf)]

end InstrClass

theorem decode_of_accepts {c : Cond} {w : Word} {k : InstrClass} (hc : condOf w = some c) (h : k.accepts w = true) :
    decode w = k.read c w := by
  rw [decode_of_condOf_some hc, InstrClass.decodeClass_eq, InstrClass.find_of_accepts h, Option.elim_some]

/-- Every word is undefined as it stands or a word of one class under a condition. -/
theorem decode_cases (w : Word) : decode w = .undefined w ∨
    ∃ c k, condOf w = some c ∧ InstrClass.accepts w k = true ∧ decode w = k.read c w := by
  cases hc : condOf w with
  | none => exact .inl (decode_of_condOf_none hc)
  | some c =>
    cases hk : InstrClass.all.find? (InstrClass.accepts w) with
    | none => exact .inl (by rw [decode_of_condOf_some hc, InstrClass.decodeClass_eq, hk, Option.elim_none])
    | some k =>
      have h := List.find?_some hk
      exact .inr ⟨c, k, rfl, h, decode_of_accepts hc h⟩

end Sys2Proof
end

section
/-! SUPPORT. Every word is the word of the instruction it decodes to (30_encoding.md R170 to R198): a word of a class is
what the class's encoder makes of its fields, and each branch of the class's decoder fixes some of them. -/

namespace Sys2Proof

/-! Fields of a few bits, value by value -/

theorem twoBits_cases (b : BitVec 2) : b = 0#2 ∨ b = 1#2 ∨ b = 2#2 ∨ b = 3#2 := by
  revert b
  decide

theorem threeBits_cases (b : BitVec 3) :
    b = 0#3 ∨ b = 1#3 ∨ b = 2#3 ∨ b = 3#3 ∨ b = 4#3 ∨ b = 5#3 ∨ b = 6#3 ∨ b = 7#3 := by
  revert b
  decide

theorem fourBits_cases (b : BitVec 4) : b = 0#4 ∨ b = 1#4 ∨ b = 2#4 ∨ b = 3#4 ∨ b = 4#4 ∨ b = 5#4 ∨ b = 6#4 ∨ b = 7#4 ∨
    b = 8#4 ∨ b = 9#4 ∨ b = 10#4 ∨ b = 11#4 ∨ b = 12#4 ∨ b = 13#4 ∨ b = 14#4 ∨ b = 15#4 := by
  revert b
  decide

section
variable {c : Cond} {w : Word}

/-- The S bit of a compare is set (R173). -/
theorem compare_bit (h : isDataProcessing w = true) (hcmp : (w.extractLsb' 21 4).toNat / 4 = 2) :
    w.getLsbD 20 = true := by
  obtain ⟨-, -, hs⟩ := isDataProcessing_iff.mp h
  exact hs (compareField_iff.mpr hcmp)

/-- Bits 6 and 5 of a half-word transfer are not both zero (R173). -/
theorem halfTransfer_kind (h : isHalfTransfer w = true) : 0 < (w.extractLsb' 5 2).toNat := by
  simp only [isHalfTransfer, Bool.and_eq_true, bne_iff_ne, ne_eq, ← BitVec.toNat_inj, BitVec.toNat_ofNat] at h
  omega

theorem halfTransfer_field (w : Word) :
    w.extractLsb' 5 2 = BitVec.ofBool (w.getLsbD 6) ++ BitVec.ofBool (w.getLsbD 5) := by
  rw [field_eq_iff, Machine.append_toNat, BitVec.toNat_ofBool, BitVec.toNat_ofBool, BitVec.getLsbD, BitVec.getLsbD,
    Nat.toNat_testBit, Nat.toNat_testBit]
  omega

variable (hc : condOf w = some c)
include hc

theorem encode_decodeBranch (h : isBranch w = true) : encode (decodeBranch c w) = w := by
  unfold decodeBranch
  split
  · next hl => exact encode_bl_eq_iff.mpr ⟨hc, h, hl, rfl⟩
  · next hl => exact encode_b_eq_iff.mpr ⟨hc, h, eq_false_of_ne_true hl, rfl⟩

theorem encode_decodeMultiply (h : isMultiply w = true) : encode (decodeMultiply c w) = w := by
  have hw : encodeMul c (w.extractLsb' 21 3).toNat (w.getLsbD 20) (regAt w 16) (regAt w 12) (regAt w 8)
      (regAt w 0) = w :=
    (encodeMul_eq_iff (BitVec.isLt _) (Fin.isLt _) (Fin.isLt _)).mpr
      ⟨hc, h, vecField_eq_iff.mpr rfl, rfl, regField_eq_iff.mpr rfl, regField_eq_iff.mpr rfl, rfl, rfl⟩
  rw [decodeMultiply]
  generalize w.extractLsb' 21 3 = op3 at hw ⊢
  obtain rfl | rfl | rfl | rfl | rfl | rfl | rfl | rfl := threeBits_cases op3
  case inr.inr.inl | inr.inr.inr.inl => rfl
  all_goals exact hw

theorem encode_decodeDataProcessing (h : isDataProcessing w = true) : encode (decodeDataProcessing c w) = w := by
  have hs := compare_bit h
  have hw : encodeDp c (w.extractLsb' 21 4).toNat (w.getLsbD 20) (regAt w 16) (regAt w 12) (operand2Of w) = w :=
    (encodeDp_eq_iff (BitVec.isLt _) (Fin.isLt _) (Fin.isLt _) hs).mpr
      ⟨hc, h, vecField_eq_iff.mpr rfl, rfl, regField_eq_iff.mpr rfl, regField_eq_iff.mpr rfl, rfl⟩
  rw [decodeDataProcessing]
  generalize w.extractLsb' 21 4 = opcode at hs hw ⊢
  obtain rfl | rfl | rfl | rfl | rfl | rfl | rfl | rfl | rfl | rfl | rfl | rfl | rfl | rfl | rfl | rfl :=
    fourBits_cases opcode
  iterate 8 exact hw
  iterate 4 -- the compares, `10xx`
    rw [hs rfl] at hw
    exact hw
  iterate 4 exact hw

theorem encode_decodeSingleTransfer (h : isSingleTransfer w = true) : encode (decodeSingleTransfer c w) = w := by
  rw [decodeSingleTransfer]
  cases hu : !w.getLsbD 24 && w.getLsbD 21
  · have hw : encodeSingle c (indexingOf w).fields (w.getLsbD 23) (w.getLsbD 22).toNat (w.getLsbD 20).toNat (regAt w 16)
        (regAt w 12) (offsetOf w) = w :=
      (encodeSingle_indexed_eq_iff (Bool.toNat_lt _) (Bool.toNat_lt _)).mpr
        ⟨hc, h, ⟨rfl, hu⟩, rfl, bitField_eq_iff.mpr rfl, bitField_eq_iff.mpr rfl, rfl, rfl, rfl⟩
    revert hw
    cases w.getLsbD 22 <;> cases w.getLsbD 20 <;> exact id
  · have hw : encodeSingle c [(21, 1)] (w.getLsbD 23) (w.getLsbD 22).toNat (w.getLsbD 20).toNat (regAt w 16)
        (regAt w 12) (offsetOf w) = w :=
      (encodeSingle_user_eq_iff (Bool.toNat_lt _) (Bool.toNat_lt _)).mpr
        ⟨hc, h, hu, rfl, bitField_eq_iff.mpr rfl, bitField_eq_iff.mpr rfl, rfl, rfl, rfl⟩
    revert hw
    cases w.getLsbD 22 <;> cases w.getLsbD 20 <;> exact id

theorem encode_decodeHalfTransfer (h : isHalfTransfer w = true) : encode (decodeHalfTransfer c w) = w := by
  have hsh := halfTransfer_kind h
  have hw : encodeHalf c (w.getLsbD 24) (w.getLsbD 23) (w.getLsbD 21) (w.getLsbD 20).toNat (w.extractLsb' 5 2).toNat
      (regAt w 16) (regAt w 12) (halfOffsetOf w) = w :=
    (encodeHalf_eq_iff (Bool.toNat_lt _) ⟨hsh, BitVec.isLt _⟩).mpr
      ⟨hc, h, rfl, rfl, rfl, bitField_eq_iff.mpr rfl, vecField_eq_iff.mpr rfl, rfl, rfl, rfl⟩
  rw [decodeHalfTransfer]
  rw [halfTransfer_field] at hsh hw
  revert hsh hw
  cases w.getLsbD 6 <;> cases w.getLsbD 5
  · exact fun hsh => absurd hsh (by decide)
  all_goals cases w.getLsbD 20
  case true.false.false | true.true.false => exact fun _ _ => rfl
  all_goals exact fun _ => id

theorem encode_decodeBlockTransfer (h : isBlockTransfer w = true) : encode (decodeBlockTransfer c w) = w := by
  have hw : encodeBlock c (w.extractLsb' 23 2).toNat (w.getLsbD 22) (w.getLsbD 21) (w.getLsbD 20).toNat (regAt w 16)
      (w.extractLsb' 0 16) = w :=
    (encodeBlock_eq_iff (BitVec.isLt _) (Bool.toNat_lt _)).mpr
      ⟨hc, h, vecField_eq_iff.mpr rfl, rfl, rfl, bitField_eq_iff.mpr rfl, rfl, rfl⟩
  rw [decodeBlockTransfer]
  generalize w.extractLsb' 23 2 = pu at hw ⊢
  revert hw
  obtain rfl | rfl | rfl | rfl := twoBits_cases pu <;> cases w.getLsbD 20 <;> exact id

theorem encode_decodeSwap (h : isSwap w = true) : encode (decodeSwap c w) = w := by
  have hw : encodeSwap c (w.getLsbD 22).toNat (regAt w 16) (regAt w 12) (regAt w 0) = w :=
    (encodeSwap_eq_iff (Bool.toNat_lt _)).mpr ⟨hc, h, bitField_eq_iff.mpr rfl, rfl, rfl, rfl⟩
  rw [decodeSwap]
  revert hw
  cases w.getLsbD 22 <;> exact id

theorem encode_decodeMrs (h : isMrs w = true) : encode (decodeMrs c w) = w := by
  have hw : encodeMrs c (w.getLsbD 22).toNat (regAt w 12) = w :=
    (encodeMrs_eq_iff (Bool.toNat_lt _)).mpr ⟨hc, h, bitField_eq_iff.mpr rfl, rfl⟩
  rw [decodeMrs]
  revert hw
  cases w.getLsbD 22 <;> exact id

theorem encode_decodeCpTransfer (h : isCpTransfer w = true) : encode (decodeCpTransfer c w) = w := by
  have hw : encodeCpTransfer c (w.getLsbD 24) (w.getLsbD 23) (w.getLsbD 22) (w.getLsbD 21) (w.getLsbD 20).toNat
      (regAt w 16) (w.extractLsb' 12 4) (cpAt w) (w.extractLsb' 0 8) = w :=
    (encodeCpTransfer_eq_iff (Bool.toNat_lt _)).mpr
      ⟨hc, h, rfl, rfl, rfl, rfl, bitField_eq_iff.mpr rfl, rfl, rfl, rfl, rfl⟩
  rw [decodeCpTransfer]
  revert hw
  cases w.getLsbD 20 <;> exact id

theorem encode_decodeCpRegister (h : isCpRegister w = true) : encode (decodeCpRegister c w) = w := by
  have hw : encodeCpRegister c (w.getLsbD 20).toNat (w.extractLsb' 21 3) (w.extractLsb' 16 4) (regAt w 12) (cpAt w)
      (w.extractLsb' 5 3) (w.extractLsb' 0 4) = w :=
    (encodeCpRegister_eq_iff (Bool.toNat_lt _)).mpr
      ⟨hc, h, bitField_eq_iff.mpr rfl, rfl, rfl, rfl, rfl, rfl, rfl⟩
  rw [decodeCpRegister]
  revert hw
  cases w.getLsbD 20 <;> exact id

theorem encode_read {k : InstrClass} (h : k.accepts w = true) : encode (k.read c w) = w := by
  cases k with
  | branch => exact encode_decodeBranch hc h
  | swi => exact encode_swi_eq_iff.mpr ⟨hc, h, rfl⟩
  | multiply => exact encode_decodeMultiply hc h
  | dataProcessing => exact encode_decodeDataProcessing hc h
  | singleTransfer => exact encode_decodeSingleTransfer hc h
  | halfTransfer => exact encode_decodeHalfTransfer hc h
  | blockTransfer => exact encode_decodeBlockTransfer hc h
  | swap => exact encode_decodeSwap hc h
  | mrs => exact encode_decodeMrs hc h
  | msrReg => exact encode_msrReg_eq_iff.mpr ⟨hc, h, rfl, rfl, rfl⟩
  | msrImm => exact encode_msrImm_eq_iff.mpr ⟨hc, h, rfl, rfl, rfl, rfl⟩
  | cpOperation => exact encode_cdp_eq_iff.mpr ⟨hc, h, rfl, rfl, rfl, rfl, rfl, rfl⟩
  | cpTransfer => exact encode_decodeCpTransfer hc h
  | cpRegister => exact encode_decodeCpRegister hc h
end

/-- Settles O3: a word that is not undefined is of one class, whose decoder keeps every field. -/
theorem encodeOfDecode : Obligations.EncodeOfDecode := by
  intro w
  obtain h | ⟨c, k, hc, hk, h⟩ := decode_cases w
  · rw [h, encode]
  · rw [h, encode_read hc hk]

end Sys2Proof
end

section
/-! SUPPORT. An instruction is what the word of its encoder decodes to (30_encoding.md R170 to R198): the word is of the
instruction's class and holds its fields. -/

namespace Sys2Proof

section
variable {c : Cond} {w : Word}

theorem decode_of_encode_eq {i : Instr} (h : encode i = w) (hi : ∀ v, i ≠ .undefined v) : decode w = i := by
  cases i
  case undefined v => exact absurd rfl (hi v)
  case b =>
    obtain ⟨hc, hk, hl, rfl⟩ := encode_b_eq_iff.mp h
    rw [decode_of_accepts (k := .branch) hc hk, InstrClass.read, decodeBranch, hl]
    rfl
  case bl =>
    obtain ⟨hc, hk, hl, rfl⟩ := encode_bl_eq_iff.mp h
    rw [decode_of_accepts (k := .branch) hc hk, InstrClass.read, decodeBranch, hl]
    rfl
  case swi =>
    obtain ⟨hc, hk, rfl⟩ := encode_swi_eq_iff.mp h
    rw [decode_of_accepts (k := .swi) hc hk, InstrClass.read]
  case mul =>
    obtain ⟨hc, hk, hop, rfl, hhi, hlo, rfl, rfl⟩ := (encodeMul_eq_iff (by decide) (Fin.isLt _) (BitVec.isLt _)).mp h
    obtain rfl := regField_eq_iff.mp hhi
    obtain rfl := vecField_eq_iff.mp hlo
    rw [decode_of_accepts (k := .multiply) hc hk, InstrClass.read, decodeMultiply, hop]
    rfl
  case mla | umull | umlal | smull | smlal =>
    obtain ⟨hc, hk, hop, rfl, hhi, hlo, rfl, rfl⟩ := (encodeMul_eq_iff (by decide) (Fin.isLt _) (Fin.isLt _)).mp h
    obtain rfl := regField_eq_iff.mp hhi
    obtain rfl := regField_eq_iff.mp hlo
    rw [decode_of_accepts (k := .multiply) hc hk, InstrClass.read, decodeMultiply, hop]
    rfl
  case tst | teq | cmp | cmn =>
    obtain ⟨hc, hk, hop, hs, hrn, hrd, rfl⟩ :=
      (encodeDp_eq_iff (by decide) (Fin.isLt _) (BitVec.isLt _) fun _ => rfl).mp h
    obtain rfl := regField_eq_iff.mp hrn
    obtain rfl := vecField_eq_iff.mp hrd
    rw [decode_of_accepts (k := .dataProcessing) hc hk, InstrClass.read, decodeDataProcessing, hop]
    rfl
  case mov | mvn =>
    obtain ⟨hc, hk, hop, rfl, hrn, hrd, rfl⟩ :=
      (encodeDp_eq_iff (by decide) (BitVec.isLt _) (Fin.isLt _) (absurd · (by decide))).mp h
    obtain rfl := vecField_eq_iff.mp hrn
    obtain rfl := regField_eq_iff.mp hrd
    rw [decode_of_accepts (k := .dataProcessing) hc hk, InstrClass.read, decodeDataProcessing, hop]
    rfl
  case and | eor | sub | rsb | add | adc | sbc | rsc | orr | bic =>
    obtain ⟨hc, hk, hop, rfl, hrn, hrd, rfl⟩ :=
      (encodeDp_eq_iff (by decide) (Fin.isLt _) (Fin.isLt _) (absurd · (by decide))).mp h
    obtain rfl := regField_eq_iff.mp hrn
    obtain rfl := regField_eq_iff.mp hrd
    rw [decode_of_accepts (k := .dataProcessing) hc hk, InstrClass.read, decodeDataProcessing, hop]
    rfl
  case ldr | str | ldrb | strb =>
    obtain ⟨hc, hk, ⟨rfl, hu⟩, rfl, hb, hl, rfl, rfl, rfl⟩ := (encodeSingle_indexed_eq_iff (by decide) (by decide)).mp h
    simp only [bitField_eq_one, bitField_eq_zero] at hb hl
    rw [decode_of_accepts (k := .singleTransfer) hc hk, InstrClass.read, decodeSingleTransfer, hu, hb, hl]
    rfl
  case ldrt | strt | ldrbt | strbt =>
    obtain ⟨hc, hk, hu, rfl, hb, hl, rfl, rfl, rfl⟩ := (encodeSingle_user_eq_iff (by decide) (by decide)).mp h
    simp only [bitField_eq_one, bitField_eq_zero] at hb hl
    rw [decode_of_accepts (k := .singleTransfer) hc hk, InstrClass.read, decodeSingleTransfer, hu, hb, hl]
    rfl
  case strh | ldrh | ldrsb | ldrsh =>
    obtain ⟨hc, hk, rfl, rfl, rfl, hl, hsh, rfl, rfl, rfl⟩ := (encodeHalf_eq_iff (by decide) (by decide)).mp h
    simp only [bitField_eq_one, bitField_eq_zero] at hl
    have hS : w.getLsbD 6 = (w.extractLsb' 5 2).getLsbD 1 := by simp
    have hH : w.getLsbD 5 = (w.extractLsb' 5 2).getLsbD 0 := by simp
    rw [decode_of_accepts (k := .halfTransfer) hc hk, InstrClass.read, decodeHalfTransfer, hl, hS, hH, hsh]
    rfl
  case ldmia | ldmib | ldmda | ldmdb | stmia | stmib | stmda | stmdb =>
    obtain ⟨hc, hk, hpu, rfl, rfl, hl, rfl, rfl⟩ := (encodeBlock_eq_iff (by decide) (by decide)).mp h
    simp only [bitField_eq_one, bitField_eq_zero] at hl
    rw [decode_of_accepts (k := .blockTransfer) hc hk, InstrClass.read, decodeBlockTransfer, hl, hpu]
    rfl
  case swp | swpb =>
    obtain ⟨hc, hk, hb, rfl, rfl, rfl⟩ := (encodeSwap_eq_iff (by decide)).mp h
    simp only [bitField_eq_one, bitField_eq_zero] at hb
    rw [decode_of_accepts (k := .swap) hc hk, InstrClass.read, decodeSwap, hb]
    rfl
  case mrsCpsr | mrsSpsr =>
    obtain ⟨hc, hk, hr, rfl⟩ := (encodeMrs_eq_iff (by decide)).mp h
    simp only [bitField_eq_one, bitField_eq_zero] at hr
    rw [decode_of_accepts (k := .mrs) hc hk, InstrClass.read, decodeMrs, hr]
    rfl
  case msrReg =>
    obtain ⟨hc, hk, rfl, rfl, rfl⟩ := encode_msrReg_eq_iff.mp h
    rw [decode_of_accepts (k := .msrReg) hc hk, InstrClass.read]
  case msrImm =>
    obtain ⟨hc, hk, rfl, rfl, rfl, rfl⟩ := encode_msrImm_eq_iff.mp h
    rw [decode_of_accepts (k := .msrImm) hc hk, InstrClass.read]
  case cdp =>
    obtain ⟨hc, hk, rfl, rfl, rfl, rfl, rfl, rfl⟩ := encode_cdp_eq_iff.mp h
    rw [decode_of_accepts (k := .cpOperation) hc hk, InstrClass.read]
  case ldc | stc =>
    obtain ⟨hc, hk, rfl, rfl, rfl, rfl, hl, rfl, rfl, rfl, rfl⟩ := (encodeCpTransfer_eq_iff (by decide)).mp h
    simp only [bitField_eq_one, bitField_eq_zero] at hl
    rw [decode_of_accepts (k := .cpTransfer) hc hk, InstrClass.read, decodeCpTransfer, hl]
    rfl
  case mcr | mrc =>
    obtain ⟨hc, hk, hl, rfl, rfl, rfl, rfl, rfl, rfl⟩ := (encodeCpRegister_eq_iff (by decide)).mp h
    simp only [bitField_eq_one, bitField_eq_zero] at hl
    rw [decode_of_accepts (k := .cpRegister) hc hk, InstrClass.read, decodeCpRegister, hl]
    rfl
end
end Sys2Proof
end

section
/-! SUPPORT. The rows of a class in the opcode table accept the words of the class, each those with its own opcode
fields (30_encoding.md R173, R202). -/

namespace Sys2Proof.Machine

/-! A comparison under a mask is a comparison of fields -/

/-- The bits of a mask are those of some fields, each given as its lowest bit and width. -/
abbrev masksFields (m : Word) (fields : List (Nat × Nat)) : Prop :=
  ∀ k < 32, m.getLsbD k = fields.any fun f => decide (f.1 ≤ k) && decide (k < f.1 + f.2)

theorem and_eq_iff {w m p : Word} (hp : p &&& m = p) :
    w &&& m = p ↔ ∀ k < 32, m.getLsbD k = true → w.getLsbD k = p.getLsbD k := by
  constructor
  · rintro rfl k - hk
    rw [BitVec.getLsbD_and, hk, Bool.and_true]
  · intro h
    apply BitVec.eq_of_getLsbD_eq
    intro k hk
    rw [← hp, BitVec.getLsbD_and, BitVec.getLsbD_and]
    cases hm : m.getLsbD k
    · rw [Bool.and_false, Bool.and_false]
    · rw [h k hk hm]

theorem field_eq_field_iff {w p : Word} {lo len : Nat} :
    w.extractLsb' lo len = p.extractLsb' lo len ↔ ∀ k, lo ≤ k → k < lo + len → w.getLsbD k = p.getLsbD k := by
  constructor
  · intro heq k hlo hhi
    have hbit := congrArg (·.getLsbD (k - lo)) heq
    have hlt : k - lo < len := by omega
    simpa only [BitVec.getLsbD_extractLsb', hlt, Nat.add_sub_cancel' hlo, decide_true, Bool.true_and] using hbit
  · intro hbits
    apply BitVec.eq_of_getLsbD_eq
    intro j hj
    rw [BitVec.getLsbD_extractLsb', BitVec.getLsbD_extractLsb', hbits (lo + j) (by omega) (by omega)]

theorem bitField_eq_bitField {w p : Word} {k : Nat} :
    w.extractLsb' k 1 = p.extractLsb' k 1 ↔ w.getLsbD k = p.getLsbD k := by
  rw [field_eq_iff, field_toNat, bit_eq, bit_eq, decide_eq_decide]
  omega

/-- The pattern `p` has no bit outside the mask. -/
theorem masked_eq_iff {w m p : Word} {fields : List (Nat × Nat)} (hm : masksFields m fields) (hp : p &&& m = p) :
    w &&& m = p ↔ ∀ f ∈ fields, w.extractLsb' f.1 f.2 = p.extractLsb' f.1 f.2 := by
  rw [and_eq_iff hp]
  constructor
  · intro h f hf
    rw [field_eq_field_iff]
    intro k hlo hhi
    rcases Nat.lt_or_ge k 32 with hk | hk
    · refine h k hk ((hm k hk).trans (List.any_eq_true.mpr ⟨f, hf, ?_⟩))
      rw [decide_eq_true hlo, decide_eq_true hhi, Bool.and_true]
    · rw [BitVec.getLsbD_of_ge _ _ hk, BitVec.getLsbD_of_ge _ _ hk]
  · intro h k hk hmk
    obtain ⟨f, hf, hin⟩ := List.any_eq_true.mp ((hm k hk).symm.trans hmk)
    rw [Bool.and_eq_true, decide_eq_true_eq, decide_eq_true_eq] at hin
    exact field_eq_field_iff.mp (h f hf) k hin.1 hin.2

/-- A row compares fields: they are those of its mask, and its pattern has no other bits. -/
abbrev comparesFields (r : OpcodeRow) (fields : List (Nat × Nat)) : Prop :=
  masksFields r.mask fields ∧ r.pattern &&& r.mask = r.pattern

theorem accepts_iff {r : OpcodeRow} {w : Word} {fields : List (Nat × Nat)} (h : comparesFields r fields) :
    r.accepts w = true ↔ (∀ f ∈ fields, w.extractLsb' f.1 f.2 = r.pattern.extractLsb' f.1 f.2) ∧
      ∀ e ∈ r.excludes, w &&& e.2 ≠ e.1 := by
  obtain ⟨hm, hp⟩ := h
  rw [← masked_eq_iff hm hp]
  simp [OpcodeRow.accepts]

/-- A row without exclusions compares fields, and its pattern is a word of its class. -/
theorem accepts_iff_fields {rows : List OpcodeRow} {r : OpcodeRow} {w : Word} {fields : List (Nat × Nat)}
    (isClass : Word → Bool) (hr : r ∈ rows)
    (h : ∀ r ∈ rows, r.excludes = [] ∧ comparesFields r fields ∧ isClass r.pattern = true) :
    isClass r.pattern = true ∧
      (r.accepts w = true ↔ ∀ f ∈ fields, w.extractLsb' f.1 f.2 = r.pattern.extractLsb' f.1 f.2) := by
  obtain ⟨he, hf, hclass⟩ := h r hr
  refine ⟨hclass, ?_⟩
  simp [accepts_iff hf, he]

theorem forall_mem_nil_iff {α : Type} {P : α → Prop} : (∀ x ∈ [], P x) ↔ True := by simp

/-! The exclusions of the table -/

section
variable {w : Word}

/-- Class 4 leaves out words of the multiplies, half-word transfers and swaps (R173). -/
theorem extensionSpace_iff : w &&& 0x02000090#32 = 0x00000090#32 ↔
    w.getLsbD 25 = false ∧ w.getLsbD 7 = true ∧ w.getLsbD 4 = true := by
  rw [masked_eq_iff (fields := [(25, 1), (7, 1), (4, 1)]) (by decide) (by decide)]
  simp only [List.forall_mem_cons, forall_mem_nil_iff, BitVec.reduceExtractLsb', bitField_eq_zero, bitField_eq_one,
    and_true]

/-- Class 4 leaves out compares that write no flags (R173). -/
theorem flaglessCompare_iff : w &&& 0x01900000#32 = 0x01000000#32 ↔
    w.extractLsb' 23 2 = 0b10#2 ∧ w.getLsbD 20 = false := by
  rw [masked_eq_iff (fields := [(23, 2), (20, 1)]) (by decide) (by decide)]
  simp only [List.forall_mem_cons, forall_mem_nil_iff, BitVec.reduceExtractLsb', bitField_eq_zero, and_true]

/-- Class 5 leaves out offsets shifted by a register (R173). -/
theorem shiftedByRegister_iff : w &&& 0x02000010#32 = 0x02000010#32 ↔
    w.getLsbD 25 = true ∧ w.getLsbD 4 = true := by
  rw [masked_eq_iff (fields := [(25, 1), (4, 1)]) (by decide) (by decide)]
  simp only [List.forall_mem_cons, forall_mem_nil_iff, BitVec.reduceExtractLsb', bitField_eq_one, and_true]

/-- The rows of LDR, STR, LDRB and STRB leave out the User-mode forms (R179). -/
theorem userForm_iff : w &&& 0x01200000#32 = 0x00200000#32 ↔ (!w.getLsbD 24 && w.getLsbD 21) = true := by
  rw [masked_eq_iff (fields := [(24, 1), (21, 1)]) (by decide) (by decide)]
  simp only [List.forall_mem_cons, forall_mem_nil_iff, BitVec.reduceExtractLsb', bitField_eq_zero, bitField_eq_one,
    and_true, Bool.and_eq_true, Bool.not_eq_true']
end

/-! The rows, class by class: the pattern of a row is a word of its class -/

section
variable (w : Word)

theorem branchRows_accept : ∀ r ∈ branchRows,
    r.accepts w = true ↔ isBranch w = true ∧ w.getLsbD 24 = r.pattern.getLsbD 24 := by
  intro r hr
  obtain ⟨hclass, hacc⟩ := accepts_iff_fields (w := w) (fields := [(25, 3), (24, 1)]) isBranch hr (by decide)
  simp only [isBranch, beq_iff_eq] at hclass ⊢
  simp only [hacc, List.forall_mem_cons, forall_mem_nil_iff, hclass, bitField_eq_bitField, and_true]

theorem swiRows_accept : ∀ r ∈ swiRows, r.accepts w = true ↔ isSwi w = true := by
  intro r hr
  obtain ⟨hclass, hacc⟩ := accepts_iff_fields (w := w) (fields := [(24, 4)]) isSwi hr (by decide)
  simp only [isSwi, beq_iff_eq] at hclass ⊢
  simp only [hacc, List.forall_mem_cons, forall_mem_nil_iff, hclass, and_true]

theorem multiplyRows_accept : ∀ r ∈ multiplyRows,
    r.accepts w = true ↔ isMultiply w = true ∧ w.extractLsb' 21 3 = r.pattern.extractLsb' 21 3 := by
  intro r hr
  obtain ⟨hclass, hacc⟩ := accepts_iff_fields (w := w) (fields := [(24, 4), (21, 3), (4, 4)]) isMultiply hr (by decide)
  simp only [isMultiply, Bool.and_eq_true, beq_iff_eq] at hclass ⊢
  simp only [hacc, List.forall_mem_cons, forall_mem_nil_iff, hclass, and_true]
  simp only [and_assoc, and_left_comm, and_comm]

theorem halfTransferRows_accept : ∀ r ∈ halfTransferRows,
    r.accepts w = true ↔ isHalfTransfer w = true ∧ w.getLsbD 20 = r.pattern.getLsbD 20 ∧
      w.extractLsb' 5 2 = r.pattern.extractLsb' 5 2 := by
  intro r hr
  obtain ⟨hclass, hacc⟩ := accepts_iff_fields (w := w) (fields := [(25, 3), (20, 1), (7, 1), (5, 2), (4, 1)])
    isHalfTransfer hr (by decide)
  simp only [isHalfTransfer, Bool.and_eq_true, beq_iff_eq, bne_iff_ne, ne_eq] at hclass ⊢
  obtain ⟨hclass, hkind⟩ := hclass
  simp only [hacc, List.forall_mem_cons, forall_mem_nil_iff, hclass, bitField_eq_bitField, and_true]
  constructor
  · rintro ⟨htop, hl, h7, hsh, h4⟩
    exact ⟨⟨⟨⟨htop, h7⟩, h4⟩, hsh ▸ hkind⟩, hl, hsh⟩
  · rintro ⟨⟨⟨⟨htop, h7⟩, h4⟩, -⟩, hl, hsh⟩
    exact ⟨htop, hl, h7, hsh, h4⟩

theorem blockTransferRows_accept : ∀ r ∈ blockTransferRows,
    r.accepts w = true ↔ isBlockTransfer w = true ∧ w.extractLsb' 23 2 = r.pattern.extractLsb' 23 2 ∧
      w.getLsbD 20 = r.pattern.getLsbD 20 := by
  intro r hr
  obtain ⟨hclass, hacc⟩ := accepts_iff_fields (w := w) (fields := [(25, 3), (23, 2), (20, 1)]) isBlockTransfer hr
    (by decide)
  simp only [isBlockTransfer, beq_iff_eq] at hclass ⊢
  simp only [hacc, List.forall_mem_cons, forall_mem_nil_iff, hclass, bitField_eq_bitField, and_true]

theorem swapRows_accept : ∀ r ∈ swapRows,
    r.accepts w = true ↔ isSwap w = true ∧ w.getLsbD 22 = r.pattern.getLsbD 22 := by
  intro r hr
  obtain ⟨hclass, hacc⟩ := accepts_iff_fields (w := w) (fields := [(23, 5), (22, 1), (20, 2), (4, 8)]) isSwap hr
    (by decide)
  simp only [isSwap, Bool.and_eq_true, beq_iff_eq] at hclass ⊢
  simp only [hacc, List.forall_mem_cons, forall_mem_nil_iff, hclass, bitField_eq_bitField, and_true]
  simp only [and_assoc, and_left_comm, and_comm]

theorem mrsRows_accept : ∀ r ∈ mrsRows, r.accepts w = true ↔ isMrs w = true ∧ w.getLsbD 22 = r.pattern.getLsbD 22 := by
  intro r hr
  obtain ⟨hclass, hacc⟩ := accepts_iff_fields (w := w) (fields := [(23, 5), (22, 1), (16, 6), (0, 12)]) isMrs hr
    (by decide)
  simp only [isMrs, Bool.and_eq_true, beq_iff_eq] at hclass ⊢
  simp only [hacc, List.forall_mem_cons, forall_mem_nil_iff, hclass, bitField_eq_bitField, and_true]
  simp only [and_assoc, and_left_comm, and_comm]

/-- The first row of class 10 is the register form. -/
theorem msrRegRow_accept : ∀ r ∈ msrRows.take 1, r.accepts w = true ↔ isMsrReg w = true := by
  intro r hr
  obtain ⟨hclass, hacc⟩ := accepts_iff_fields (w := w) (fields := [(23, 5), (20, 2), (4, 12)]) isMsrReg hr (by decide)
  simp only [isMsrReg, Bool.and_eq_true, beq_iff_eq] at hclass ⊢
  simp only [hacc, List.forall_mem_cons, forall_mem_nil_iff, hclass, and_true, and_assoc]

/-- The second row of class 10 is the immediate form. -/
theorem msrImmRow_accept : ∀ r ∈ msrRows.drop 1, r.accepts w = true ↔ isMsrImm w = true := by
  intro r hr
  obtain ⟨hclass, hacc⟩ := accepts_iff_fields (w := w) (fields := [(23, 5), (20, 2), (12, 4)]) isMsrImm hr (by decide)
  simp only [isMsrImm, Bool.and_eq_true, beq_iff_eq] at hclass ⊢
  simp only [hacc, List.forall_mem_cons, forall_mem_nil_iff, hclass, and_true, and_assoc]

theorem cdpRows_accept : ∀ r ∈ cdpRows, r.accepts w = true ↔ isCpOperation w = true := by
  intro r hr
  obtain ⟨hclass, hacc⟩ := accepts_iff_fields (w := w) (fields := [(24, 4), (4, 1)]) isCpOperation hr (by decide)
  simp only [isCpOperation, Bool.and_eq_true, beq_iff_eq, Bool.not_eq_true'] at hclass ⊢
  simp only [hacc, List.forall_mem_cons, forall_mem_nil_iff, hclass, bitField_eq_bitField, and_true]

theorem cpTransferRows_accept : ∀ r ∈ cpTransferRows,
    r.accepts w = true ↔ isCpTransfer w = true ∧ w.getLsbD 20 = r.pattern.getLsbD 20 := by
  intro r hr
  obtain ⟨hclass, hacc⟩ := accepts_iff_fields (w := w) (fields := [(25, 3), (20, 1)]) isCpTransfer hr (by decide)
  simp only [isCpTransfer, beq_iff_eq] at hclass ⊢
  simp only [hacc, List.forall_mem_cons, forall_mem_nil_iff, hclass, bitField_eq_bitField, and_true]

theorem cpRegisterRows_accept : ∀ r ∈ cpRegisterRows,
    r.accepts w = true ↔ isCpRegister w = true ∧ w.getLsbD 20 = r.pattern.getLsbD 20 := by
  intro r hr
  obtain ⟨hclass, hacc⟩ := accepts_iff_fields (w := w) (fields := [(24, 4), (20, 1), (4, 1)]) isCpRegister hr
    (by decide)
  simp only [isCpRegister, Bool.and_eq_true, beq_iff_eq] at hclass ⊢
  simp only [hacc, List.forall_mem_cons, forall_mem_nil_iff, hclass, bitField_eq_bitField, and_true]
  simp only [and_assoc, and_comm]

/-- The row of a compare also asks for its S bit, which its opcode and an exclusion of the class imply. -/
theorem dataProcessingRows_accept : ∀ r ∈ dataProcessingRows,
    r.accepts w = true ↔ isDataProcessing w = true ∧ w.extractLsb' 21 4 = r.pattern.extractLsb' 21 4 := by
  intro r hr
  obtain ⟨he, htop, hf⟩ : r.excludes = [(0x00000090#32, 0x02000090#32), (0x01000000#32, 0x01900000#32)] ∧
      r.pattern.extractLsb' 26 2 = 0b00#2 ∧ (comparesFields r [(26, 2), (21, 4)] ∨
        comparesFields r [(26, 2), (21, 4), (20, 1)] ∧ r.pattern.extractLsb' 23 2 = 0b10#2 ∧
          r.pattern.getLsbD 20 = true) := by
    revert r
    decide
  rw [isDataProcessing_iff]
  obtain hf | ⟨hf, hsub, hs⟩ := hf
  · rw [accepts_iff hf, he]
    simp only [List.forall_mem_cons, forall_mem_nil_iff, htop, ne_eq, extensionSpace_iff, flaglessCompare_iff, and_true,
      not_and, Bool.not_eq_true, Bool.not_eq_false]
    exact ⟨fun ⟨⟨htop, hop⟩, hexcl⟩ => ⟨⟨htop, hexcl⟩, hop⟩, fun ⟨⟨htop, hexcl⟩, hop⟩ => ⟨⟨htop, hop⟩, hexcl⟩⟩
  · have hcompare : w.extractLsb' 21 4 = r.pattern.extractLsb' 21 4 → w.extractLsb' 23 2 = 0b10#2 := fun h => by
      rw [compareField_iff, h, ← compareField_iff, hsub]
    rw [accepts_iff hf, he]
    simp only [List.forall_mem_cons, forall_mem_nil_iff, htop, hs, ne_eq, extensionSpace_iff, flaglessCompare_iff,
      bitField_eq_bitField, and_true, not_and, Bool.not_eq_true, Bool.not_eq_false]
    constructor
    · rintro ⟨⟨hclass, hop, -⟩, hexcl⟩
      exact ⟨⟨hclass, hexcl⟩, hop⟩
    · rintro ⟨⟨hclass, hshift, hS⟩, hop⟩
      exact ⟨⟨hclass, hop, hS (hcompare hop)⟩, hshift, hS⟩

/-- Bit 21 of a row's pattern tells the User-mode forms (R179). -/
theorem singleTransferRows_accept : ∀ r ∈ singleTransferRows, r.accepts w = true ↔
    isSingleTransfer w = true ∧ (!w.getLsbD 24 && w.getLsbD 21) = r.pattern.getLsbD 21 ∧
      w.getLsbD 22 = r.pattern.getLsbD 22 ∧ w.getLsbD 20 = r.pattern.getLsbD 20 := by
  intro r hr
  obtain ⟨htop, hf⟩ : r.pattern.extractLsb' 26 2 = 0b01#2 ∧
      (r.excludes = [(0x02000010#32, 0x02000010#32), (0x00200000#32, 0x01200000#32)] ∧
        comparesFields r [(26, 2), (22, 1), (20, 1)] ∧ r.pattern.getLsbD 21 = false ∨
      r.excludes = [(0x02000010#32, 0x02000010#32)] ∧
        comparesFields r [(26, 2), (24, 1), (22, 1), (21, 1), (20, 1)] ∧ r.pattern.getLsbD 24 = false ∧
          r.pattern.getLsbD 21 = true) := by
    revert r
    decide
  rw [isSingleTransfer_iff]
  obtain ⟨he, hf, h21⟩ | ⟨he, hf, h24, h21⟩ := hf
  · rw [accepts_iff hf, he]
    simp only [List.forall_mem_cons, forall_mem_nil_iff, htop, h21, ne_eq, shiftedByRegister_iff, userForm_iff,
      bitField_eq_bitField, and_true, not_and, Bool.not_eq_true]
    exact ⟨fun ⟨⟨htop, hbits⟩, hreg, huser⟩ => ⟨⟨htop, hreg⟩, huser, hbits⟩,
      fun ⟨⟨htop, hreg⟩, huser, hbits⟩ => ⟨⟨htop, hbits⟩, hreg, huser⟩⟩
  · rw [accepts_iff hf, he]
    simp only [List.forall_mem_cons, forall_mem_nil_iff, htop, h24, h21, ne_eq, shiftedByRegister_iff,
      bitField_eq_bitField, and_true, not_and, Bool.not_eq_true, Bool.and_eq_true, Bool.not_eq_true']
    exact ⟨fun ⟨⟨htop, h24, h22, h21, h20⟩, hreg⟩ => ⟨⟨htop, hreg⟩, ⟨h24, h21⟩, h22, h20⟩,
      fun ⟨⟨htop, hreg⟩, ⟨h24, h21⟩, h22, h20⟩ => ⟨⟨htop, h24, h22, h21, h20⟩, hreg⟩⟩
end

end Sys2Proof.Machine
end

section
/-! SUPPORT. The opcode table gives a word the mnemonic of the instruction it decodes to (30_encoding.md R202): the rows
that can accept it are those of its class, and among them its opcode fields choose as they do in the decoder. -/

namespace Sys2Proof.Machine

/-- The mnemonic of an instruction that has a row in the table. -/
def rowName : Instr → Option String
  | .undefined _ => none
  | i => some i.mnemonic

theorem mnemonic_eq (i : Instr) : i.mnemonic = (rowName i).getD "UNDEFINED" := by cases i <;> rfl

/-- The rows of a class (R202). -/
def classRows : InstrClass → List OpcodeRow
  | .branch => branchRows
  | .swi => swiRows
  | .multiply => multiplyRows
  | .dataProcessing => dataProcessingRows
  | .singleTransfer => singleTransferRows
  | .halfTransfer => halfTransferRows
  | .blockTransfer => blockTransferRows
  | .swap => swapRows
  | .mrs => mrsRows
  | .msrReg => msrRows.take 1
  | .msrImm => msrRows.drop 1
  | .cpOperation => cdpRows
  | .cpTransfer => cpTransferRows
  | .cpRegister => cpRegisterRows

theorem opcodeTable_eq : opcodeTable = InstrClass.all.flatMap classRows := rfl

/-- The mnemonic of the first row that accepts a word. -/
def nameIn (rows : List OpcodeRow) (w : Word) : Option String := (rows.find? (·.accepts w)).map (·.mnemonic)

theorem tableMnemonic_eq {w : Word} (h : w.extractLsb' 28 4 ≠ 0b1111#4) :
    tableMnemonic w = (nameIn opcodeTable w).getD "UNDEFINED" := by
  rw [tableMnemonic, tableRow, if_neg h, nameIn]
  cases opcodeTable.find? (·.accepts w) <;> rfl

section
variable {w : Word}

/-- A row accepts only words of its class. -/
theorem accepts_of_row {k : InstrClass} {r : OpcodeRow} (hr : r ∈ classRows k) (h : r.accepts w = true) :
    k.accepts w = true := by
  cases k with
  | branch => exact ((branchRows_accept w r hr).mp h).1
  | swi => exact (swiRows_accept w r hr).mp h
  | multiply => exact ((multiplyRows_accept w r hr).mp h).1
  | dataProcessing => exact ((dataProcessingRows_accept w r hr).mp h).1
  | singleTransfer => exact ((singleTransferRows_accept w r hr).mp h).1
  | halfTransfer => exact ((halfTransferRows_accept w r hr).mp h).1
  | blockTransfer => exact ((blockTransferRows_accept w r hr).mp h).1
  | swap => exact ((swapRows_accept w r hr).mp h).1
  | mrs => exact ((mrsRows_accept w r hr).mp h).1
  | msrReg => exact (msrRegRow_accept w r hr).mp h
  | msrImm => exact (msrImmRow_accept w r hr).mp h
  | cpOperation => exact (cdpRows_accept w r hr).mp h
  | cpTransfer => exact ((cpTransferRows_accept w r hr).mp h).1
  | cpRegister => exact ((cpRegisterRows_accept w r hr).mp h).1

theorem nameIn_classRows_none {k : InstrClass} (h : k.accepts w = false) : nameIn (classRows k) w = none := by
  rw [nameIn, Option.map_eq_none_iff, List.find?_eq_none]
  intro r hr hacc
  rw [accepts_of_row hr hacc] at h
  cases h

theorem nameIn_opcodeTable (w : Word) :
    nameIn opcodeTable w = InstrClass.all.findSome? fun k => nameIn (classRows k) w := by
  rw [nameIn, opcodeTable_eq, List.find?_flatMap, List.map_findSome?]
  rfl

theorem nameIn_opcodeTable_none (h : ∀ k, InstrClass.accepts w k = false) : nameIn opcodeTable w = none := by
  rw [nameIn_opcodeTable, List.findSome?_eq_none_iff]
  exact fun k _ => nameIn_classRows_none (h k)

/-- Only the rows of a word's class decide its name. -/
theorem nameIn_opcodeTable_of_accepts {k : InstrClass} (h : k.accepts w = true) :
    nameIn opcodeTable w = nameIn (classRows k) w := by
  rw [nameIn_opcodeTable]
  cases hfound : InstrClass.all.findSome? fun k => nameIn (classRows k) w with
  | none => exact (List.findSome?_eq_none_iff.mp hfound k k.mem_all).symm
  | some name =>
    obtain ⟨k', -, hname⟩ := List.exists_of_findSome?_eq_some hfound
    have hk' : k'.accepts w = true := by
      rw [← Bool.not_eq_false]
      intro hnot
      rw [nameIn_classRows_none hnot] at hname
      cases hname
    rw [InstrClass.eq_ofWord h, ← InstrClass.eq_ofWord hk', hname]

/-- Among the rows of a word's class the opcode fields choose. -/
theorem nameIn_of_accept {rows : List OpcodeRow} {isClass : Prop} {chosen : OpcodeRow → Prop} [DecidablePred chosen]
    (hrows : ∀ r ∈ rows, r.accepts w = true ↔ isClass ∧ chosen r) (h : isClass) :
    nameIn rows w = (rows.find? (decide <| chosen ·)).map (·.mnemonic) := by
  induction rows with
  | nil => rfl
  | cons r rows ih =>
    have hr : r.accepts w = decide (chosen r) := by
      rw [Bool.eq_iff_iff, hrows r List.mem_cons_self, decide_eq_true_eq]
      exact ⟨And.right, And.intro h⟩
    have hrest := ih fun r' hr' => hrows r' (List.mem_cons_of_mem r hr')
    rw [nameIn] at hrest ⊢
    rw [List.find?_cons, List.find?_cons, hr]
    cases decide (chosen r)
    · exact hrest
    · rfl

/-- Rows that accept the same words: the first decides. -/
theorem nameIn_of_accept_all {rows : List OpcodeRow} {isClass : Prop}
    (hrows : ∀ r ∈ rows, r.accepts w = true ↔ isClass) (h : isClass) :
    nameIn rows w = rows.head?.map (·.mnemonic) := by
  cases rows with
  | nil => rfl
  | cons r rows => simp [nameIn, (hrows r (List.mem_cons_self ..)).mpr h]

variable (c : Cond)

theorem nameIn_branchRows (h : isBranch w = true) : nameIn branchRows w = rowName (decodeBranch c w) := by
  rw [nameIn_of_accept (branchRows_accept w) h, decodeBranch]
  cases w.getLsbD 24 <;> rfl

theorem nameIn_multiplyRows (h : isMultiply w = true) : nameIn multiplyRows w = rowName (decodeMultiply c w) := by
  rw [nameIn_of_accept (multiplyRows_accept w) h, decodeMultiply]
  generalize w.extractLsb' 21 3 = op
  obtain rfl | rfl | rfl | rfl | rfl | rfl | rfl | rfl := threeBits_cases op <;> rfl

theorem nameIn_dataProcessingRows (h : isDataProcessing w = true) :
    nameIn dataProcessingRows w = rowName (decodeDataProcessing c w) := by
  rw [nameIn_of_accept (dataProcessingRows_accept w) h, decodeDataProcessing]
  generalize w.extractLsb' 21 4 = opcode
  obtain rfl | rfl | rfl | rfl | rfl | rfl | rfl | rfl | rfl | rfl | rfl | rfl | rfl | rfl | rfl | rfl :=
    fourBits_cases opcode <;> rfl

theorem nameIn_singleTransferRows (h : isSingleTransfer w = true) :
    nameIn singleTransferRows w = rowName (decodeSingleTransfer c w) := by
  rw [nameIn_of_accept (singleTransferRows_accept w) h, decodeSingleTransfer]
  cases !w.getLsbD 24 && w.getLsbD 21 <;> cases w.getLsbD 22 <;> cases w.getLsbD 20 <;> rfl

theorem nameIn_halfTransferRows (h : isHalfTransfer w = true) :
    nameIn halfTransferRows w = rowName (decodeHalfTransfer c w) := by
  have hkind := halfTransfer_kind h
  rw [nameIn_of_accept (halfTransferRows_accept w) h, decodeHalfTransfer]
  rw [halfTransfer_field w] at hkind ⊢
  revert hkind
  cases w.getLsbD 6 <;> cases w.getLsbD 5
  · exact fun hkind => absurd hkind (by decide)
  all_goals exact fun _ => by cases w.getLsbD 20 <;> rfl

theorem nameIn_blockTransferRows (h : isBlockTransfer w = true) :
    nameIn blockTransferRows w = rowName (decodeBlockTransfer c w) := by
  rw [nameIn_of_accept (blockTransferRows_accept w) h, decodeBlockTransfer]
  generalize w.extractLsb' 23 2 = pu
  obtain rfl | rfl | rfl | rfl := twoBits_cases pu <;> cases w.getLsbD 20 <;> rfl

theorem nameIn_classRows {k : InstrClass} (h : k.accepts w = true) : nameIn (classRows k) w = rowName (k.read c w) := by
  cases k with
  | branch => exact nameIn_branchRows c h
  | swi => exact nameIn_of_accept_all (swiRows_accept w) h
  | multiply => exact nameIn_multiplyRows c h
  | dataProcessing => exact nameIn_dataProcessingRows c h
  | singleTransfer => exact nameIn_singleTransferRows c h
  | halfTransfer => exact nameIn_halfTransferRows c h
  | blockTransfer => exact nameIn_blockTransferRows c h
  | swap =>
    rw [InstrClass.read, classRows, nameIn_of_accept (swapRows_accept w) h, decodeSwap]
    cases w.getLsbD 22 <;> rfl
  | mrs =>
    rw [InstrClass.read, classRows, nameIn_of_accept (mrsRows_accept w) h, decodeMrs]
    cases w.getLsbD 22 <;> rfl
  | msrReg => exact nameIn_of_accept_all (msrRegRow_accept w) h
  | msrImm => exact nameIn_of_accept_all (msrImmRow_accept w) h
  | cpOperation => exact nameIn_of_accept_all (cdpRows_accept w) h
  | cpTransfer =>
    rw [InstrClass.read, classRows, nameIn_of_accept (cpTransferRows_accept w) h, decodeCpTransfer]
    cases w.getLsbD 20 <;> rfl
  | cpRegister =>
    rw [InstrClass.read, classRows, nameIn_of_accept (cpRegisterRows_accept w) h, decodeCpRegister]
    cases w.getLsbD 20 <;> rfl
end

/-- Settles O4: a word of no class is accepted by no row, a word of a class by the row its decoder chooses. -/
theorem decodeAgreesWithOpcodeTable : Obligations.DecodeAgreesWithOpcodeTable := by
  intro w
  cases hc : condOf w with
  | none =>
    rw [decode_of_condOf_none hc, tableMnemonic, tableRow, if_pos (condOf_eq_none.mp hc)]
    rfl
  | some c =>
    have hcond : w.extractLsb' 28 4 ≠ 0b1111#4 := by
      rw [ne_eq, ← condOf_eq_none, hc]
      simp
    rw [tableMnemonic_eq hcond, mnemonic_eq, decode_of_condOf_some hc, InstrClass.decodeClass_eq]
    cases hk : InstrClass.all.find? (InstrClass.accepts w) with
    | none =>
      have hnone : ∀ k, InstrClass.accepts w k = false := fun k =>
        eq_false_of_ne_true (List.find?_eq_none.mp hk k k.mem_all)
      rw [nameIn_opcodeTable_none hnone]
      rfl
    | some k =>
      have hacc := List.find?_some hk
      rw [nameIn_opcodeTable_of_accepts hacc, nameIn_classRows c hacc, Option.elim_some]

end Sys2Proof.Machine
end

section
/-! SUPPORT. Instructions and their words, both ways, and the condition field (30_encoding.md R170 to R198). -/

namespace Sys2Proof.Machine

theorem eq_undefined_of_mnemonic {i : Instr} (h : i.mnemonic = "UNDEFINED") : ∃ w, i = .undefined w := by
  cases i
  case undefined w => exact ⟨w, rfl⟩
  all_goals simp [Instr.mnemonic] at h

/-- A word without a row is undefined as it stands (R196, R202). -/
theorem decode_of_tableRow_none {w : Word} (h : tableRow w = none) : decode w = .undefined w := by
  have hname : (decode w).mnemonic = "UNDEFINED" := by rw [decodeAgreesWithOpcodeTable w, tableMnemonic, h]
  obtain ⟨v, hv⟩ := eq_undefined_of_mnemonic hname
  have hself := encodeOfDecode w
  rw [hv, encode] at hself
  rw [hv, hself]

/-- Settles O2: a word without a row is undefined, and the word of any other instruction is of its class and holds its
fields. -/
theorem decodeOfEncode : Obligations.DecodeOfEncode := by
  intro i h
  cases i
  case undefined w =>
    have hrow : tableRow w = none := by simpa [Instr.wellFormed] using h
    exact decode_of_tableRow_none hrow
  all_goals exact decode_of_encode_eq rfl nofun

/-- What the decoder makes of a word of a class carries the word's condition, or is undefined. -/
theorem cond_read (c : Cond) (w : Word) (k : InstrClass) :
    Instr.cond (k.read c w) = (rowName (k.read c w)).map fun _ => c := by
  cases k with
  | branch =>
    rw [InstrClass.read, decodeBranch]
    cases w.getLsbD 24 <;> rfl
  | swi => rfl
  | multiply =>
    rw [InstrClass.read, decodeMultiply]
    generalize w.extractLsb' 21 3 = op
    obtain rfl | rfl | rfl | rfl | rfl | rfl | rfl | rfl := threeBits_cases op <;> rfl
  | dataProcessing =>
    rw [InstrClass.read, decodeDataProcessing]
    generalize w.extractLsb' 21 4 = opcode
    obtain rfl | rfl | rfl | rfl | rfl | rfl | rfl | rfl | rfl | rfl | rfl | rfl | rfl | rfl | rfl | rfl :=
      fourBits_cases opcode <;> rfl
  | singleTransfer =>
    rw [InstrClass.read, decodeSingleTransfer]
    cases !w.getLsbD 24 && w.getLsbD 21 <;> cases w.getLsbD 22 <;> cases w.getLsbD 20 <;> rfl
  | halfTransfer =>
    rw [InstrClass.read, decodeHalfTransfer]
    cases w.getLsbD 20 <;> cases w.getLsbD 6 <;> cases w.getLsbD 5 <;> rfl
  | blockTransfer =>
    rw [InstrClass.read, decodeBlockTransfer]
    generalize w.extractLsb' 23 2 = pu
    obtain rfl | rfl | rfl | rfl := twoBits_cases pu <;> cases w.getLsbD 20 <;> rfl
  | swap =>
    rw [InstrClass.read, decodeSwap]
    cases w.getLsbD 22 <;> rfl
  | mrs =>
    rw [InstrClass.read, decodeMrs]
    cases w.getLsbD 22 <;> rfl
  | msrReg => rfl
  | msrImm => rfl
  | cpOperation => rfl
  | cpTransfer =>
    rw [InstrClass.read, decodeCpTransfer]
    cases w.getLsbD 20 <;> rfl
  | cpRegister =>
    rw [InstrClass.read, decodeCpRegister]
    cases w.getLsbD 20 <;> rfl

theorem condOf_of_cond_decode {w : Word} {c : Cond} (h : Instr.cond (decode w) = some c) : condOf w = some c := by
  obtain hw | ⟨c', k, hc, -, hw⟩ := decode_cases w
  · rw [hw] at h
    cases h
  · rw [hw, cond_read, Option.map_eq_some_iff] at h
    obtain ⟨-, -, rfl⟩ := h
    exact hc

/-- Settles O5: a decoded instruction carries the condition its word was read under, and a word without a condition is
undefined. -/
theorem nvWordsAreUndefined : Obligations.NvWordsAreUndefined := by
  intro w
  refine ⟨fun c h => condOf_eq_some.mp (condOf_of_cond_decode h), fun h => ?_⟩
  have hw : decode w = .undefined w := decode_of_condOf_none (condOf_eq_none.mpr h)
  refine ⟨hw, fun s => ?_⟩
  rw [hw]
  refine ⟨enterException .undefined (s.pc + 4) s, rfl, ?_, enterException_pc ..⟩
  rw [enterException_cpsr]
  rfl

/-- Settles O1: the decoder is run on each word. -/
theorem decodeSampleWords : Obligations.DecodeSampleWords := by
  unfold Obligations.DecodeSampleWords
  decide

end Sys2Proof.Machine
end

section
/-! SUPPORT. An access that stops stops its transfer, and of a block transfer's words the first that stops does
(20_memory.md R101, R102, R112; 70_reset_and_hazards.md R620). -/

namespace Sys2Proof.Machine

/-! A single access -/

section
variable {s : State} {e : Fault}

theorem busRead_fault {w : Width} {a : Word} (h : busFault s.cfg w a = some e) : busRead w a s = .fault e := by
  simp [busRead, h]

theorem busWrite_fault {w : Width} {a : Word} (v : Word) (h : storeFault s.cfg s.pc w a = some e) :
    busWrite w a v s = .fault e := by
  simp [busWrite, h]

theorem busRead_served {w : Width} {a : Word} (h : busFault s.cfg w a = none) :
    busRead w a s = .next (extractRead w a (busWord (alignWord a) s).1, (busWord (alignWord a) s).2) :=
  (busRead_eq_next s).mpr ⟨h, rfl⟩

theorem busWrite_served {w : Width} {a : Word} (v : Word) (h : storeFault s.cfg s.pc w a = none) :
    busWrite w a v s = .next (storeEffect w a v s) :=
  (busWrite_eq_next s).mpr ⟨h, rfl⟩

theorem load_fault {w : Width} {x : Extend} {a : Address} {rn rd : Reg} (h : busFault s.cfg w a.addr = some e) :
    load w x a rn rd s = .fault e := by
  rw [load, busRead_fault (by simpa using h), andThen_fault]

theorem store_fault {w : Width} {a : Address} {rn rd : Reg} (h : storeFault s.cfg s.pc w a.addr = some e) :
    store w a rn rd s = .fault e := by
  rw [store, busWrite_fault _ (by simpa using h), andThen_fault]

/-- A swap stops at its read or, the address served, at its write. -/
theorem swap_fault {w : Width} {rn rd rm : Reg} (h : storeFault s.cfg s.pc w (readReg s rn) = some e) :
    swap w rn rd rm s = .fault e := by
  rw [swap]
  cases hb : busFault s.cfg w (readReg s rn) with
  | some e' =>
    rw [storeFault_of_busFault hb] at h
    cases h
    rw [busRead_fault (by simpa using hb), andThen_fault]
  | none => rw [busRead_served (by simpa using hb), andThen_next, busWrite_fault _ (by simpa using h), andThen_fault]

/-! Block transfers -/

/-- Of the words at `a`, `a + 4`, … the one of number `k` is the first that stops, with `e`. -/
def firstStop (fault : Word → Option Fault) (a : Word) (k : Nat) (e : Fault) : Prop :=
  (∀ j, j < k → fault (cpWord a j) = none) ∧ fault (cpWord a k) = some e

theorem firstStop_zero {fault : Word → Option Fault} {a : Word} (h : firstStop fault a 0 e) : fault a = some e := by
  rw [firstStop, cpWord_zero] at h
  exact h.2

theorem firstStop_succ {fault : Word → Option Fault} {a : Word} {k : Nat} (h : firstStop fault a (k + 1) e) :
    fault a = none ∧ firstStop fault (a + 4) k e := by
  obtain ⟨hbefore, hstop⟩ := h
  rw [cpWord_succ] at hstop
  refine ⟨cpWord_zero a ▸ hbefore 0 (Nat.succ_pos k), fun j hj => ?_, hstop⟩
  rw [← cpWord_succ]
  exact hbefore (j + 1) (Nat.succ_lt_succ hj)

theorem readMany_fault {l : List Reg} {a : Word} {k : Nat} (hk : k < l.length)
    (h : firstStop (busFault s.cfg .word) a k e) : readMany l a s = .fault e := by
  induction l generalizing a s k with
  | nil => cases hk
  | cons i l ih =>
    rw [readMany]
    cases k with
    | zero => rw [busRead_fault (by rw [busFault_word_alignWord]; exact firstStop_zero h), andThen_fault]
    | succ k =>
      obtain ⟨hserved, hrest⟩ := firstStop_succ h
      rw [busRead_alignWord hserved, andThen_next, ih (Nat.lt_of_succ_lt_succ hk) (by simpa using hrest), andThen_fault]

theorem writeMany_fault {l : List (Reg × Word)} {a : Word} {k : Nat} (hk : k < l.length)
    (h : firstStop (storeFault s.cfg s.pc .word) a k e) : writeMany l a s = .fault e := by
  induction l generalizing a s k with
  | nil => cases hk
  | cons x l ih =>
    rw [writeMany]
    cases k with
    | zero => rw [busWrite_fault _ (firstStop_zero h), andThen_fault]
    | succ k =>
      obtain ⟨hserved, hrest⟩ := firstStop_succ h
      rw [busWrite_served _ hserved, andThen_next, ih (Nat.lt_of_succ_lt_succ hk) (by simpa using hrest)]

theorem loadMultiple_fault {m : BlockMode} {sf w : Bool} {rn : Reg} {list : BitVec 16} {k : Nat}
    (hk : k < popcount list)
    (h : firstStop (busFault s.cfg .word) (tableStart m (readReg s rn) (popcount list)) k e) :
    loadMultiple m sf w rn list s = .fault e := by
  rw [← length_listed] at hk
  rw [← blockStart_eq] at h
  rw [loadMultiple, readMany_fault hk (by simpa [blockAddress] using h), andThen_fault]

theorem storeMultiple_fault {m : BlockMode} {sf w : Bool} {rn : Reg} {list : BitVec 16} {k : Nat}
    (hk : k < popcount list)
    (h : firstStop (storeFault s.cfg s.pc .word) (tableStart m (readReg s rn) (popcount list)) k e) :
    storeMultiple m sf w rn list s = .fault e := by
  rw [← length_listed] at hk
  rw [← blockStart_eq] at h
  rw [storeMultiple, writeMany_fault (by simpa using hk) (by simpa [blockAddress] using h), andThen_fault]

end

end Sys2Proof.Machine
end

section
/-! SUPPORT. A coprocessor transfer up to the word that stops it: the lines the core sees are those of the port alone
(48_coprocessor.md R525 to R527). -/

namespace Sys2Proof.Machine

section
variable {cp : Fin 16} {s u : State} {e : Fault}

/-- A transfer that goes on past its first word goes on from there. -/
theorem goesOn_cons {v : Option Word} {vs : List (Option Word)} (h : PortAgrees cp s u) (hon : goesOn cp (v :: vs) s) :
    (look cp u).cp.lines.last = false ∧ goesOn cp vs (moveWord cp v (look cp s)) := by
  obtain ⟨hsettled, hlast⟩ := hon
  obtain ⟨hfirst, hlater⟩ := settled_step v hsettled
  refine ⟨?_, hlater, fun x hx => hlast x (List.mem_cons_of_mem _ hx)⟩
  rw [h.look_eq hfirst]
  exact hlast _ List.mem_cons_self

/-- The transfer of an STC from a state whose port agrees with that of `s` stops at the first word that does, if the
coprocessor has not ended it before. -/
theorem storeTransfer_fault {n k : Nat} {a : Word} (hk : k < n) (h : firstStop (storeFault u.cfg u.pc .word) a k e)
    (hagree : PortAgrees cp s u) (hon : goesOn cp (List.replicate k none) s) :
    storeTransfer cp n a u = .fault e := by
  induction n generalizing a s u k with
  | zero => cases hk
  | succ n ih =>
    rw [storeTransfer]
    cases k with
    | zero => rw [busWrite_fault _ (by simpa using firstStop_zero h), andThen_fault]
    | succ k =>
      obtain ⟨hserved, hrest⟩ := firstStop_succ h
      obtain ⟨hlast, hon⟩ := goesOn_cons hagree (List.replicate_succ ▸ hon)
      have hstored : PortAgrees cp (look cp s) (storeEffect .word a (look cp u).cp.lines.dataIn (look cp u)) :=
        hagree.look.trans (portAgrees_of_kept (by simp) (by simp [keepsPort]))
      rw [busWrite_served _ (by simpa using hserved), andThen_next, hlast, if_neg Bool.false_ne_true]
      exact ih (Nat.lt_of_succ_lt_succ hk) (by simpa using hrest) (hstored.moveWord none) hon

/-- The word a read brings is the one memory holds. -/
theorem busWord_alignWord_memory (hw : Config.wf u.cfg) (hc : cacheCoherent u.cfg u.mem u.cache) {a : Word}
    (ha : a.msb = false) : (busWord (alignWord a) u).1 = wordAt u.mem (a.toNat / 4 * 4) := by
  rw [(busWord_coherent hw hc ((alignWord_msb a).trans ha) (alignWord_mod_four a)).1, alignWord_toNat]

/-- There are such words: those memory holds. -/
theorem exists_wordsRead (m : Memory) (word : Nat → Word) (k : Nat) :
    ∃ vs : List Word, vs.length = k ∧ wordsRead m word vs :=
  ⟨(List.range k).map fun j => wordAt m ((word j).toNat / 4 * 4), by simp, fun j hj _ => by
    rw [List.length_map, List.length_range] at hj
    simp [hj]⟩

/-- The transfer of an LDC from a state whose port agrees with that of `s` stops at the first word that does, if the
coprocessor, given the words read before it, has not ended it. -/
theorem loadTransfer_fault {n k : Nat} {a : Word} (hk : k < n) (h : firstStop (busFault u.cfg .word) a k e)
    (hagree : PortAgrees cp s u)
    (hon : ∀ vs : List Word, vs.length = k →
      (Config.wf u.cfg → cacheCoherent u.cfg u.mem u.cache → wordsRead u.mem (cpWord a) vs) →
      goesOn cp (vs.map some) s) :
    loadTransfer cp n a u = .fault e := by
  induction n generalizing a s u k with
  | zero => cases hk
  | succ n ih =>
    rw [loadTransfer]
    cases k with
    | zero => rw [busRead_fault (by rw [busFault_word_alignWord]; exact firstStop_zero h), andThen_fault]
    | succ k =>
      obtain ⟨hserved, hrest⟩ := firstStop_succ h
      have hread : PortAgrees cp s (busWord (alignWord a) u).2 :=
        hagree.trans (portAgrees_of_kept (by simp) (by simp [keepsPort]))
      have hlater (vs : List Word) (hlen : vs.length = k)
          (hvs : Config.wf u.cfg → cacheCoherent u.cfg u.mem u.cache → wordsRead u.mem (cpWord (a + 4)) vs) :=
        goesOn_cons hread (hon ((busWord (alignWord a) u).1 :: vs) (by simp [hlen]) fun hw hc =>
          wordsRead_cons.mpr ⟨busWord_alignWord_memory hw hc, hvs hw hc⟩)
      obtain ⟨vs, hlen, hvs⟩ := exists_wordsRead u.mem (cpWord (a + 4)) k
      obtain ⟨hlast, -⟩ := hlater vs hlen fun _ _ => hvs
      rw [busRead_alignWord hserved, andThen_next]
      dsimp only
      rw [hlast, if_neg Bool.false_ne_true]
      refine ih (Nat.lt_of_succ_lt_succ hk) (by simpa using hrest) (hread.look.moveWord _) fun vs hlen hvs => ?_
      exact (hlater vs hlen fun hw hc =>
        by simpa using hvs (by simpa using hw) (by simpa using busWord_keeps_coherent hw hc a)).2
end

end Sys2Proof.Machine
end

section
/-! SUPPORT. Where the memory instructions stop: the numbers, then each class of instructions by the stop of its
accesses. -/

namespace Sys2Proof.Machine

/-! The numbers -/

section
variable {cfg : Config} {w : Width} {a : Word} (hodd : ¬ (w = .half ∧ a.toNat % 2 = 1))
include hodd

theorem busFault_served
    (h : (a.toNat < 2 ^ 31 ∧ (if w = .word then a.toNat / 4 * 4 else a.toNat) < cfg.memLimit) ∨
      (2 ^ 31 ≤ a.toNat ∧ ∃ p ∈ cfg.periphMap, p.base ≤ (if w = .word then a.toNat / 4 * 4 else a.toNat) ∧
        (if w = .word then a.toNat / 4 * 4 else a.toNat) < p.base + p.size)) : busFault cfg w a = none := by
  simp only [← busAddress_toNat, ← msb_eq_false_iff, ← msb_eq_true_iff] at h
  rw [busFault_not_odd hodd]
  obtain ⟨hlow, hlim⟩ | ⟨hhigh, hmap⟩ := h
  · rw [accessFault_memory (by rwa [busAddress_msb]), if_pos hlim]
  · rw [accessFault_peripheral (by rwa [busAddress_msb]), if_pos hmap]

theorem busFault_outsideMemory (hlow : a.toNat < 2 ^ 31)
    (hlim : cfg.memLimit ≤ (if w = .word then a.toNat / 4 * 4 else a.toNat)) :
    busFault cfg w a = some .outsideMemory := by
  rw [← busAddress_toNat] at hlim
  rw [busFault_not_odd hodd, accessFault_memory (by rwa [busAddress_msb, msb_eq_false_iff]),
    if_neg (Nat.not_lt.mpr hlim)]

theorem busFault_outsidePeripherals (hhigh : 2 ^ 31 ≤ a.toNat)
    (hmap : ∀ p ∈ cfg.periphMap, (if w = .word then a.toNat / 4 * 4 else a.toNat) < p.base ∨
      p.base + p.size ≤ (if w = .word then a.toNat / 4 * 4 else a.toNat)) :
    busFault cfg w a = some .outsidePeripherals := by
  rw [← busAddress_toNat] at hmap
  have hnone : ¬ ∃ p ∈ cfg.periphMap, p.base ≤ (busAddress w a).toNat ∧ (busAddress w a).toNat < p.base + p.size := by
    rintro ⟨p, hp, hbase, hsize⟩
    have := hmap p hp
    omega
  rw [busFault_not_odd hodd, accessFault_peripheral (by rwa [busAddress_msb, msb_eq_true_iff]), if_neg hnone]

end

/-! The instructions -/

section
variable {s : State} {e : Fault} {c : Cond}

theorem loadForms_fault {ix : Indexing} {p u w : Bool} {rn rd : Reg} {off : Offset} {hoff : HalfOffset} {f : LoadForm}
    (hp : condPassed c s.cpsr = true) (hf : f ∈ loadForms c ix p u w rn rd off hoff s) (hr : f.refusal = none)
    (h : busFault s.cfg f.width f.address.addr = some e) : exec f.instr s = .fault e := by
  simp only [loadForms, List.mem_cons, List.not_mem_nil, or_false] at hf
  obtain rfl | rfl | rfl | rfl | rfl | rfl | rfl := hf
  all_goals
    dsimp only [exec] at hr h ⊢
    exact (conditional_passed hr hp).trans (load_fault h)

theorem storeForms_fault {ix : Indexing} {p u w : Bool} {rn rd : Reg} {off : Offset} {hoff : HalfOffset} {f : StoreForm}
    (hp : condPassed c s.cpsr = true) (hf : f ∈ storeForms c ix p u w rn rd off hoff s) (hr : f.refusal = none)
    (h : storeFault s.cfg s.pc f.width f.address.addr = some e) : exec f.instr s = .fault e := by
  obtain ⟨address, haddress, hexec⟩ := storeForms_store hf
  rw [hexec, conditional_passed hr hp]
  exact store_fault (by rwa [haddress])

/-- An LDC stops at the first word that does, as long as the coprocessor goes on with the words read before it. -/
theorem exec_ldc_fault {p u n w : Bool} {rn : Reg} {crd : BitVec 4} {cp : Fin 16} {imm8 : Byte} {k : Nat}
    (hp : condPassed c s.cpsr = true) (hr : restrictCpTransfer p w rn = none)
    (hack : (ask cp (encode (.ldc c p u n w rn crd cp imm8)) s).1 = .ack) (hk : k < 16)
    (h : firstStop (busFault s.cfg .word) (cpStart p u rn imm8 s) k e)
    (hon : ∀ vs : List Word, vs.length = k →
      (Config.wf s.cfg → cacheCoherent s.cfg s.mem s.cache → wordsRead s.mem (cpWord (cpStart p u rn imm8 s)) vs) →
      goesOn cp (vs.map some) (accepted cp (encode (.ldc c p u n w rn crd cp imm8)) s)) :
    exec (.ldc c p u n w rn crd cp imm8) s = .fault e := by
  rw [exec_ldc_accepted hp hr hack]
  generalize encode (.ldc c p u n w rn crd cp imm8) = word at hon
  obtain ⟨-, hcfg, hmem, -⟩ := transferStart_frame cp word u w rn imm8 s
  have hagree := transferStart_agrees cp word u w rn imm8 s
  rw [loadTransfer_fault hk (by rwa [hcfg]) hagree fun vs hlen hvs => hon vs hlen fun hw hc => ?_, andThen_fault]
  rw [← hmem]
  exact hvs (by rwa [hcfg]) (transferStart_coherent cp word u w rn imm8 s hw hc)

/-- An STC stops at the first word that does, as long as the coprocessor goes on before it. -/
theorem exec_stc_fault {p u n w : Bool} {rn : Reg} {crd : BitVec 4} {cp : Fin 16} {imm8 : Byte} {k : Nat}
    (hp : condPassed c s.cpsr = true) (hr : restrictCpTransfer p w rn = none)
    (hack : (ask cp (encode (.stc c p u n w rn crd cp imm8)) s).1 = .ack) (hk : k < 16)
    (h : firstStop (storeFault s.cfg s.pc .word) (cpStart p u rn imm8 s) k e)
    (hon : goesOn cp (List.replicate k none) (accepted cp (encode (.stc c p u n w rn crd cp imm8)) s)) :
    exec (.stc c p u n w rn crd cp imm8) s = .fault e := by
  rw [exec_stc_accepted hp hr hack]
  generalize encode (.stc c p u n w rn crd cp imm8) = word at hon
  obtain ⟨-, hcfg, -, -, hpc, -⟩ := transferStart_frame cp word u w rn imm8 s
  rw [storeTransfer_fault hk (by rwa [hcfg, hpc]) (transferStart_agrees cp word u w rn imm8 s) hon, andThen_fault]

end

/-- Settles O40: the numbers are those of the bus's and the store's checks; an access that stops stops its instruction,
and in a transfer of many words the first one that stops does. -/
theorem transfersStopOutsideMemory : Obligations.TransfersStopOutsideMemory := by
  constructor
  · intro cfg cur a w
    refine ⟨busFault_odd, busFault_served, busFault_outsideMemory, busFault_outsidePeripherals,
      fun e => storeFault_of_busFault, fun hb hwin => ?_, fun hb hwin => ?_⟩
    · rw [storeFault_of_served hb, if_pos (storeInWindow_iff.mpr hwin)]
    · rw [storeFault_of_served hb, if_neg (mt storeInWindow_iff.mp hwin)]
  · intro c ix p u n w sf rn rd rm off hoff list crd cp imm8 s e hp
    refine ⟨fun f => loadForms_fault hp, fun f => storeForms_fault hp, fun hr => ⟨fun h => ?_, fun h => ?_⟩,
      fun hr f hf k hk h => ?_, fun hr f hf k hk h => ?_,
      fun hr k hk => ⟨fun hack h hon => exec_ldc_fault hp hr hack hk h hon,
        fun hack h hon => exec_stc_fault hp hr hack hk h hon⟩⟩
    · exact (conditional_passed hr hp).trans (swap_fault h)
    · exact (conditional_passed hr hp).trans (swap_fault h)
    · rw [exec_ldmForms hp hr hf]
      exact loadMultiple_fault hk h
    · rw [exec_stmForms hp hr hf]
      exact storeMultiple_fault hk h

end Sys2Proof.Machine
end
